-- ==== Sys2Proof/Word.lean ====
section
/-! DEFINITION. The word types of the block: bytes, pulse descriptors, command, response and operation words, unit masks. -/

namespace Sys2Proof

/-- One byte of a memory space (R73). -/
abbrev Byte := BitVec 8

/-- A 32-bit pulse descriptor (R101): the one unit that RING and WIN hold (R72). -/
abbrev Desc := BitVec 32

/-- A phase duration, 0 to 32767 ticks: a 15-bit field of a descriptor (R101). -/
abbrev Dur := BitVec 15

/-- The 64-bit command word (R106). -/
abbrev CmdWord := BitVec 64

/-- The 32-bit response word (R111). -/
abbrev RespWord := BitVec 32

/-- The operation word of an internal step: its 4-bit code (R114) and its channel operand (log 4). -/
abbrev OpWord := BitVec 16

/-- A unit bitmask: bit i is unit i (R110). The low NSTEP bits are meaningful. -/
abbrev Mask := BitVec 16

/-- An exact fraction `num / den`: what the model holds of a real number whose format the spec leaves
opaque (R21, R108; log 8). -/
structure Ratio where
  num : Int
  den : Nat
deriving DecidableEq, Repr

/-- The number 0, the reset value of every numeric configuration register (R53). -/
def Ratio.zero : Ratio := ⟨0, 1⟩

/-- A fraction that is a positive number. -/
def Ratio.isPos (r : Ratio) : Bool := decide (0 < r.num) && decide (0 < r.den)

end Sys2Proof
end

