-- ==== Sys2Proof/Syntax.lean ====
section
/-! DEFINITION. The operations of the block and its three word formats: one constructor of `Instr` per row of spec/opcode_table.json. -/

namespace Sys2Proof

/-- The operations (R7, R114) and the descriptor classes (R102). Operands stand in the order of R117's textual
forms; the channel of an internal step is 8 bits, as in the command word's `unit` field (log 4). -/
inductive Instr where
  /-- `SETUP s, d` (R230). -/
  | setup (stepPin dirPin : BitVec 8)
  /-- `MOVE u, dir, n` (R235). -/
  | move (unit : BitVec 8) (dir : Bool) (steps : BitVec 32)
  /-- `START m, c` (R211). -/
  | start (mask : Mask) (caller : BitVec 32)
  /-- `STOP m` (R214). -/
  | stop (mask : Mask)
  /-- `WK_TAKE` (R157). -/
  | wkTake
  /-- `ENC_FIRST u` (R133). -/
  | encFirst (unit : BitVec 8)
  /-- `ENC_CONT u` (R134). -/
  | encCont (unit : BitVec 8)
  /-- `ENC_END u` (R135). -/
  | encEnd (unit : BitVec 8)
  /-- `WK_NEXT` (R159). -/
  | wkNext
  /-- `WK_ARM` (R160). -/
  | wkArm
  /-- `TX_DESC u` (R181). -/
  | txDesc (unit : BitVec 8)
  /-- `TX_END u` (R182). -/
  | txEnd (unit : BitVec 8)
  /-- `H_THR u` (R196). -/
  | hThr (unit : BitVec 8)
  /-- `H_END u` (R197). -/
  | hEnd (unit : BitVec 8)
  /-- The end-of-train marker met by a transmitter (R102, R103). -/
  | descEnd
  /-- The first descriptor of a step, `desc(1, dur0, 0, dur1)`, met by a transmitter (R102). -/
  | descStep (dur0 dur1 : Dur)
  /-- A continuation descriptor, `desc(0, dur0, 0, dur1)`, met by a transmitter (R102). -/
  | descLow (dur0 dur1 : Dur)
deriving DecidableEq, Repr

/-- The three word formats (R100): a command word, the operation word of an internal step, a descriptor. -/
inductive InstrWord where
  | command (w : CmdWord)
  | operation (w : OpWord)
  | descriptor (w : Desc)
deriving DecidableEq, Repr

end Sys2Proof
end

