-- ==== Sys2Proof/Decode.lean ====
section
/-! DEFINITION. The decoder of the three word formats, total and rejecting by name, and after it the encoder. -/

namespace Sys2Proof

/-- Why a word is no operation. -/
inductive DecodeError where
  /-- A command word that matches no row of R107 (R113). -/
  | reservedCommand
  /-- An operation word whose code is not 0x5 to 0xE, or with a non-zero bit where it has no operand (R114, log 4). -/
  | reservedOperation
  /-- A descriptor with `lvl1 = 1`: no class of R102 (R104). -/
  | reservedDescriptor
deriving DecidableEq, Repr

/-- `w[hi:lo]` (R9), by its low bit and its length. -/
def field {n : Nat} (w : BitVec n) (lo len : Nat) : BitVec len := w.extractLsb' lo len

/-- The command word (R106, R107). A must-be-zero field that is not zero makes the word reserved (R113). -/
def decodeCommand (w : CmdWord) : Except DecodeError Instr :=
  if field w 56 3 ≠ 0 then .error .reservedCommand
  else if field w 60 4 = 1 then
    if field w 59 1 = 0 ∧ field w 48 8 = 0 ∧ field w 32 16 = 0 ∧ field w 16 16 = 0 then
      .ok (.setup (field w 0 8) (field w 8 8))
    else .error .reservedCommand
  else if field w 60 4 = 2 then
    if field w 32 16 = 0 then .ok (.move (field w 48 8) (w.getLsbD 59) (field w 0 32))
    else .error .reservedCommand
  else if field w 60 4 = 3 then
    if field w 59 1 = 0 ∧ field w 48 8 = 0 then .ok (.start (field w 32 16) (field w 0 32))
    else .error .reservedCommand
  else if field w 60 4 = 4 then
    if field w 59 1 = 0 ∧ field w 48 8 = 0 ∧ field w 0 32 = 0 then .ok (.stop (field w 32 16))
    else .error .reservedCommand
  else .error .reservedCommand

/-- The operation word of an internal step: code in bits 3:0 (R114), channel in bits 15:8 (log 4). -/
def decodeOperation (w : OpWord) : Except DecodeError Instr :=
  if field w 4 4 ≠ 0 then .error .reservedOperation
  else if field w 0 4 = 0x6 then .ok (.encFirst (field w 8 8))
  else if field w 0 4 = 0x7 then .ok (.encCont (field w 8 8))
  else if field w 0 4 = 0x8 then .ok (.encEnd (field w 8 8))
  else if field w 0 4 = 0xB then .ok (.txDesc (field w 8 8))
  else if field w 0 4 = 0xC then .ok (.txEnd (field w 8 8))
  else if field w 0 4 = 0xD then .ok (.hThr (field w 8 8))
  else if field w 0 4 = 0xE then .ok (.hEnd (field w 8 8))
  else if field w 8 8 ≠ 0 then .error .reservedOperation
  else if field w 0 4 = 0x5 then .ok .wkTake
  else if field w 0 4 = 0x9 then .ok .wkNext
  else if field w 0 4 = 0xA then .ok .wkArm
  else .error .reservedOperation

/-- The class of a descriptor, by R102's tests in R102's order. -/
def decodeDescriptor (w : Desc) : Except DecodeError Instr :=
  if w = 0 then .ok .descEnd
  else if w.getLsbD 31 then .error .reservedDescriptor
  else if w.getLsbD 15 then .ok (.descStep (field w 0 15) (field w 16 15))
  else .ok (.descLow (field w 0 15) (field w 16 15))

/-- The decoder: total on the words of every format (R116: no mode changes it). -/
def decode : InstrWord → Except DecodeError Instr
  | .command w => decodeCommand w
  | .operation w => decodeOperation w
  | .descriptor w => decodeDescriptor w

/-- The word of a table row of `nbits` bits: an operation code with its channel operand above it, a descriptor, or
a command word. -/
def tableWord (nbits w : Nat) : InstrWord :=
  if nbits ≤ 16 then .operation (BitVec.ofNat 16 w)
  else if nbits ≤ 32 then .descriptor (BitVec.ofNat 32 w)
  else .command (BitVec.ofNat 64 w)

/-- What the decoder reads from a table row's word. -/
def decodeTableWord (nbits w : Nat) : Option Instr :=
  match decode (tableWord nbits w) with
  | .ok i => some i
  | .error _ => none

/-- `desc(l0, d0, l1, d1)` (R101): phase 0 in the low half-word, each phase a level above its duration. -/
def desc (l0 : Bool) (d0 : Dur) (l1 : Bool) (d1 : Dur) : Desc :=
  BitVec.ofBool l1 ++ d1 ++ BitVec.ofBool l0 ++ d0

/-- The operation word of a code and a channel (R114, log 4). -/
def opWord (code : BitVec 4) (u : BitVec 8) : InstrWord := .operation (u ++ 0#4 ++ code)

/-- The encoder: R107's patterns for the commands, R114's codes for the internal steps, R102's fields for the
descriptor classes. -/
def encode : Instr → InstrWord
  | .setup s d => .command (1#4 ++ 0#1 ++ 0#3 ++ 0#8 ++ 0#16 ++ 0#16 ++ d ++ s)
  | .move u dir n => .command (2#4 ++ BitVec.ofBool dir ++ 0#3 ++ u ++ 0#16 ++ n)
  | .start m c => .command (3#4 ++ 0#1 ++ 0#3 ++ 0#8 ++ m ++ c)
  | .stop m => .command (4#4 ++ 0#1 ++ 0#3 ++ 0#8 ++ m ++ 0#32)
  | .wkTake => opWord 0x5#4 0
  | .encFirst u => opWord 0x6#4 u
  | .encCont u => opWord 0x7#4 u
  | .encEnd u => opWord 0x8#4 u
  | .wkNext => opWord 0x9#4 0
  | .wkArm => opWord 0xA#4 0
  | .txDesc u => opWord 0xB#4 u
  | .txEnd u => opWord 0xC#4 u
  | .hThr u => opWord 0xD#4 u
  | .hEnd u => opWord 0xE#4 u
  | .descEnd => .descriptor 0
  | .descStep d0 d1 => .descriptor (desc true d0 false d1)
  | .descLow a b => .descriptor (desc false a false b)

end Sys2Proof
end

