-- ==== Sys2Proof/Config.lean ====
section
/-! DEFINITION. Constants the spec values, the model's default parameter set, and the one free value (the motion oracle). -/

namespace Sys2Proof

/-- `DUR_MAX`, the largest phase duration in ticks (R8). -/
def Config.durMax : Nat := 32767

/-- `2^TICKW`: a tick count at or above it is `fault(TICK_OVERFLOW)` (R8, R140). -/
def Config.tickLimit : Nat := 2 ^ 32

/-- The most units a mask can name (R8: 1 ≤ NSTEP ≤ 16). -/
def Config.maxUnits : Nat := 16

/-- NSTEP of the reset state. DESIGN CHOICE (log 1, unsafe): the value of the spec's test vectors. -/
def Config.resetUnits : Nat := 2

/-- The k-th answer of the motion oracle for the sequence the n-th `prepare` installed, where the environment
has listed none. FREE VALUE (R36: the block assumes nothing about it; log 9). -/
opaque Config.freeSample : (n k : Nat) → Nat

end Sys2Proof
end

