-- ==== Sys2Proof/Machine/State.lean ====
section
/-! DEFINITION. The state of the block as plain data: the Unit Registry, the Synchronization State, the worker, the outputs, the model-level marks, the inputs of a step; and the state after reset. -/

namespace Sys2Proof.Machine

/-- Why a step can stop with a fault. -/
inductive Fault where
  /-- A transmitter fetch or a copy from the ring met a word of WIN or RING that nothing has written. Raised by
  `txDesc`, `txEnd`, `hThr` and `wkArm`. Safe: R87 says no rule reads such a word, so no run of the block meets it (log 12). -/
  | unwrittenWord
deriving DecidableEq, Repr

/-- Why the model gives no meaning. Except for `notModelled` and `badParameters` these are the reasons of the sticky
`refused` mark (R51), which `step` answers with once the mark is set. -/
inductive Refusal where
  /-- An instruction without a meaning yet. Raised by no arm of `exec`: every row of the table has its meaning. Safe. -/
  | notModelled (mnemonic : String)
  /-- The parameters break a constraint of R8, R305 (U19). Raised by `step`. Safe. -/
  | badParameters
  /-- A START while another is in flight (R213 (a), U1). Marked by `start`. Safe: nothing is claimed after it. -/
  | secondStart
  /-- A START with an empty mask (R213 (b), U2). Marked by `start`. Safe: nothing is claimed after it. -/
  | emptyStart
  /-- A MOVE of a unit that is not fully idle (R237, U3). Marked by `move`. Safe: nothing is claimed after it. -/
  | busyMove
  /-- A reserved command word (R113, U12). Marked by the fetch. Safe: nothing is claimed after it. -/
  | reservedCommand
  /-- An operation word that names no internal step (R114). Marked by the fetch. Safe: nothing is claimed after it. -/
  | reservedOperation
deriving DecidableEq, Repr

/-- The parameters of R8 but NSTEP, which is the length of the registry. C is a power of two and W is even by
construction. No step writes them (R54; log 1). -/
structure Params where
  /-- `IDXW` = log2 C. -/
  idxw : Nat
  /-- `HALF` = W / 2. -/
  half : Nat
  /-- `P`, the fixed high pulse in ticks. -/
  pulse : Nat
  /-- `NANOS_PER_TICK`: read by the conversion of R131 at the boundary, by no step (R271, D5). -/
  nanosPerTick : Ratio
deriving DecidableEq, Repr

/-- A memory space: byte cells in the canonical form of `Memory.wf` (Machine/Ops.lean). An address that is not listed
has no value (R87; log 12). The descriptor of index i lies at addresses 4i to 4i+3 (log 13). -/
abbrev Memory := List Host.Cell

/-- The configuration registers of a unit (R21). -/
structure UnitCfg where
  stepPin : BitVec 8
  dirPin : BitVec 8
  stepsPerUnit : Ratio
  invStepsPerUnit : Ratio
  maxSpeed : Ratio
  maxAccel : Ratio
deriving DecidableEq, Repr

/-- The motion handle `prepare` returned (R36, R273): which sequence it is, the kinematic values the collaborator
was given (R109), and the samples the environment has listed, in ticks (R131, D34; log 9). -/
structure Motion where
  train : Nat
  v0 : Ratio
  vTarget : Ratio
  accel : Ratio
  jerk : Ratio
  samples : List Nat
deriving DecidableEq, Repr

/-- One constant-level segment of the pulse trace (R48). -/
structure Segment where
  level : Bool
  ticks : Dur
deriving DecidableEq, Repr

/-- One entry of the Unit Registry (R20), with its channel (R33 to R38), its memory spaces (R70) and its outputs. -/
structure UnitState where
  cfg : UnitCfg
  /-- R22. -/
  setup : Bool
  /-- R23. -/
  direction : Bool
  /-- R24. -/
  stepsRemaining : BitVec 32
  /-- R25. -/
  pendingTicks : BitVec 32
  /-- R26: next write slot of RING. -/
  head : Nat
  /-- R27: next read slot of RING. -/
  tail : Nat
  /-- R28: next refill slot of WIN. -/
  hwOffset : Nat
  /-- R29, also called `started` (C6). -/
  armed : Bool
  /-- R30. -/
  endEmitted : Bool
  /-- R36. -/
  motion : Option Motion
  /-- R36. -/
  motionCalls : BitVec 32
  /-- R33. -/
  txRun : Bool
  /-- R34: next fetch slot of WIN. -/
  txPos : Nat
  /-- R35. -/
  txAvail : Nat
  /-- R37. -/
  thrPending : Bool
  /-- R37. -/
  endPending : Bool
  /-- The model's own: TX[u] met BAD_DESCRIPTOR and takes no further step (R12; log 11). -/
  txDead : Bool
  /-- R38. -/
  stepOut : Bool
  /-- R38. -/
  dirOut : Bool
  /-- R48: oldest segment first. -/
  trace : List Segment
  /-- RING[u] (R70). -/
  ring : Memory
  /-- WIN[u] (R70). -/
  win : Memory
deriving DecidableEq, Repr

/-- The worker's position in its event loop (R47). -/
inductive WkState where
  | wait
  | fill
  | armPass
deriving DecidableEq, Repr

/-- The sticky set of model-level faults (R51). -/
structure ModelFaults where
  encShort : Bool
  tickOverflow : Bool
  badDescriptor : Bool
deriving DecidableEq, Repr

/-- An observable response (R48): the response word of a command, or the start-done event, which is the response of
the blocked START of that caller (R111, R215). -/
inductive Event where
  | response (w : RespWord)
  | startDone (caller : BitVec 32) (w : RespWord)
deriving DecidableEq, Repr

/-- What stands beside a command word (R108, R109) and what the environment answers SETUP (R232). -/
structure SideInputs where
  cfgSpu : Ratio
  cfgInv : Ratio
  cfgVmax : Ratio
  cfgAmax : Ratio
  /-- `pin_valid(s, d)` for the pins of this command. -/
  pinValid : Bool
  allocOk : Bool
  /-- `pinlock_result`: `none` is ok, `some e` is err(e). -/
  pinlock : Option (BitVec 16)
  /-- `configure_result`: `none` is ok, `some e` is err(e). -/
  configure : Option (BitVec 16)
  motV0 : Ratio
  motVt : Ratio
  motA : Ratio
  motJ : Ratio
  /-- The listed prefix of the sample sequence a MOVE installs, in ticks (log 9). -/
  samples : List Nat
deriving DecidableEq, Repr

/-- One turn of the schedule (R13, U14; log 2). -/
inductive Turn where
  /-- The host presents a command word, with its side inputs. -/
  | host (w : CmdWord) (side : SideInputs)
  /-- The operation of an operation word is taken by its agent. -/
  | operation (w : OpWord)
  /-- The worker takes its one enabled step (R132, R153). -/
  | worker
  /-- The handler takes the first pending service in the order of R263. -/
  | handler
  /-- TX[u] fetches the descriptor at `tx_pos[u]` and runs it (R83). -/
  | tx (u : BitVec 8)
deriving DecidableEq, Repr

/-- The state of the block. The fields from `params` to `txSel` that R53 does not name are the arguments of the
spec's step relation (R54), held as data. -/
structure State where
  /-- R8. -/
  params : Params
  /-- R20: the Unit Registry; its length is NSTEP. -/
  units : List UnitState
  /-- R42. -/
  activeMask : Mask
  /-- R43. -/
  activeCount : Nat
  /-- R44. -/
  waiterValid : Bool
  /-- R44. -/
  waiterId : BitVec 32
  /-- R47. -/
  workerCreated : Bool
  /-- R47. -/
  workerSig : Mask
  /-- R47. -/
  wkState : WkState
  /-- R47. -/
  wkMask : Mask
  /-- R47. -/
  wkUnit : Option Nat
  /-- R49: high for the one step that asserts it (log 14). -/
  ctxSwitchReq : Bool
  /-- R51. -/
  faults : ModelFaults
  /-- R51: the sticky `refused` mark, with its reason. -/
  refused : Option Refusal
  /-- R48: responses and start-done events, oldest first (log 20). -/
  events : List Event
  /-- The model's own: the turns still to be taken (U14; log 2). -/
  agenda : List Turn
  /-- The model's own: the side inputs now presented (R232; log 7). -/
  side : SideInputs
  /-- The model's own: how many times `prepare` has been called (R36; log 9). -/
  prepares : Nat
  /-- The model's own: the channel whose transmitter has the turn (log 5). -/
  txSel : BitVec 8
deriving DecidableEq, Repr

/-- The parameters of the reset state: C = 8, W = 4, P = 10, 50 ns per tick. DESIGN CHOICE (log 1, unsafe): R8 leaves
them open; these are the values of the spec's test vectors. -/
def Params.reset : Params := { idxw := 3, half := 2, pulse := 10, nanosPerTick := ⟨50, 1⟩ }

/-- The configuration of a unit after reset (R53). -/
def UnitCfg.reset : UnitCfg :=
  { stepPin := 0, dirPin := 0, stepsPerUnit := .zero, invStepsPerUnit := .zero, maxSpeed := .zero, maxAccel := .zero }

/-- A registry entry after reset (R53). RING and WIN list nothing: their contents are unspecified (R87). -/
def UnitState.reset : UnitState :=
  { cfg := .reset, setup := false, direction := false, stepsRemaining := 0, pendingTicks := 0,
    head := 0, tail := 0, hwOffset := 0, armed := false, endEmitted := false,
    motion := none, motionCalls := 0,
    txRun := false, txPos := 0, txAvail := 0, thrPending := false, endPending := false, txDead := false,
    stepOut := false, dirOut := false, trace := [], ring := [], win := [] }

/-- No model-level fault met (R53). -/
def ModelFaults.none : ModelFaults := { encShort := false, tickOverflow := false, badDescriptor := false }

/-- The side inputs of the reset state: every answer ok, every number 0. DESIGN CHOICE (log 7, unsafe). -/
def SideInputs.reset : SideInputs :=
  { cfgSpu := .zero, cfgInv := .zero, cfgVmax := .zero, cfgAmax := .zero,
    pinValid := true, allocOk := true, pinlock := Option.none, configure := Option.none,
    motV0 := .zero, motVt := .zero, motA := .zero, motJ := .zero, samples := [] }

/-- The block after reset, for a parameter set and a number of units (R53, R290 to R292). -/
def State.resetWith (p : Params) (nstep : Nat) : State :=
  { params := p, units := List.replicate nstep UnitState.reset,
    activeMask := 0, activeCount := 0, waiterValid := false, waiterId := 0,
    workerCreated := false, workerSig := 0, wkState := .wait, wkMask := 0, wkUnit := Option.none,
    ctxSwitchReq := false, faults := .none, refused := Option.none, events := [],
    agenda := [], side := .reset, prepares := 0, txSel := 0 }

/-- The block right after reset (R53). -/
def State.reset : State := State.resetWith Params.reset Config.resetUnits

end Sys2Proof.Machine
end

