-- ==== Sys2Proof/Machine/Operands.lean ====
section
/-! DEFINITION. Operand forms: the fields of a descriptor, the encoder's splits, the scans of a unit mask, the words of a response, and the conversions at the boundary. -/

namespace Sys2Proof.Machine

/-- `C`, the ring capacity (R8). -/
def Params.ringCap (p : Params) : Nat := 2 ^ p.idxw

/-- `W`, the window size (R8). -/
def Params.winSize (p : Params) : Nat := 2 * p.half

/-- The constraints of R8 and R305 on the parameters and on NSTEP. -/
def Params.ok (p : Params) (nstep : Nat) : Bool :=
  decide (1 ≤ nstep) && decide (nstep ≤ Config.maxUnits) && decide (1 ≤ p.half) &&
  decide (p.winSize + 1 < p.ringCap) && decide (1 ≤ p.pulse) && decide (p.pulse ≤ Config.durMax) &&
  p.nanosPerTick.isPos

/-- `dur0` of a descriptor, bits 14:0 (R101). -/
def dur0 (w : Desc) : Dur := field w 0 15

/-- `lvl0` of a descriptor, bit 15 (R101). -/
def lvl0 (w : Desc) : Bool := w.getLsbD 15

/-- `dur1` of a descriptor, bits 30:16 (R101). -/
def dur1 (w : Desc) : Dur := field w 16 15

/-- `lvl1` of a descriptor, bit 31 (R101). -/
def lvl1 (w : Desc) : Bool := w.getLsbD 31

/-- The end-of-train marker (R103). -/
def marker : Desc := 0

/-- A word with both durations 0: with a level bit set it is `fault(BAD_DESCRIPTOR)` (R188). -/
def bothZero (w : Desc) : Bool := decide (dur0 w = 0) && decide (dur1 w = 0)

/-- The level the line rests at after a descriptor: that of the last phase that took time (R181, C10). -/
def restLevel (w : Desc) : Bool := if dur1 w = 0 then lvl0 w else lvl1 w

/-- How many step pulses a descriptor outputs: its phases with level 1 and ticks > 0 (R48). -/
def pulsesOf (w : Desc) : Nat :=
  (if lvl0 w = true ∧ dur0 w ≠ 0 then 1 else 0) + (if lvl1 w = true ∧ dur1 w ≠ 0 then 1 else 0)

/-- The ticks a descriptor carries. -/
def ticksOf (w : Desc) : Nat := (dur0 w).toNat + (dur1 w).toNat

/-- A tick count as a duration field, unscaled (R105). -/
def durOf (n : Nat) : Dur := BitVec.ofNat 15 n

/-- `L`, the low time of the first descriptor of an interval of `t` ticks with pulse `p` (R133). -/
def firstLow (t p : Nat) : Nat := min (t - p) Config.durMax

/-- The DESC_STEP word of an interval of `t` ticks with pulse `p` (R130, R133). -/
def stepWord (t p : Nat) : Desc := desc true (durOf p) false (durOf (firstLow t p))

/-- What an interval leaves for continuation descriptors (R133). -/
def firstCarry (t p : Nat) : Nat := t - p - firstLow t p

/-- The larger half `a` of a remainder, phase 0 of its continuation descriptor (R134, D8). -/
def contHigh (p : Nat) : Nat := if p < 2 * Config.durMax then (p + 1) / 2 else Config.durMax

/-- The smaller half `b`, phase 1 of the continuation descriptor (R134, D8). -/
def contLow (p : Nat) : Nat := if p < 2 * Config.durMax then p / 2 else Config.durMax

/-- What a continuation descriptor leaves pending (R134). -/
def contCarry (p : Nat) : Nat := if p < 2 * Config.durMax then 0 else p - 2 * Config.durMax

/-- The DESC_LOW word of a remainder of `p` ticks (R134). -/
def lowWord (p : Nat) : Desc := desc false (durOf (contHigh p)) false (durOf (contLow p))

/-- `lowbit(m)`: the index of the lowest 1 bit, none of an empty mask (R9). -/
def lowbit (m : Mask) : Option Nat := (List.range Config.maxUnits).find? fun i => m.getLsbD i

/-- `nextbit(m, i)`: the lowest index above `i` whose bit is 1, or none (R9). -/
def nextbit (m : Mask) (i : Nat) : Option Nat :=
  (List.range Config.maxUnits).find? fun j => decide (i < j) && m.getLsbD j

/-- `popcount(m)` (R9). -/
def popcount (m : Mask) : Nat := (List.range Config.maxUnits).countP fun i => m.getLsbD i

/-- The mask with the one bit `u` (R196). -/
def unitBit (u : Nat) : Mask := BitVec.twoPow 16 u

/-- The bits of `m` at or above NSTEP, which name no unit (R212). -/
def beyond (m : Mask) (nstep : Nat) : Mask := m >>> nstep

/-- The kinds of a command error (R251). -/
inductive CmdError where
  | notEnoughMemory
  | invalidUnit
  | noMoreUnits
  | unitNotSetup
  | invalidPin
  /-- Reserved; no rule raises it (R252). -/
  | invalidDirection
  /-- Reserved; no rule raises it (R252). -/
  | invalidAcceleration
  /-- A propagated collaborator error, with its value. -/
  | external (e : BitVec 16)
deriving DecidableEq, Repr

/-- The code of an error (R251). -/
def CmdError.code : CmdError → BitVec 8
  | .notEnoughMemory => 1
  | .invalidUnit => 2
  | .noMoreUnits => 3
  | .unitNotSetup => 4
  | .invalidPin => 5
  | .invalidDirection => 6
  | .invalidAcceleration => 7
  | .external _ => 8

/-- The `ext` field of an error's response (R111). -/
def CmdError.ext : CmdError → BitVec 16
  | .external e => e
  | _ => 0

/-- The response word (R111). -/
def respWord (code : BitVec 8) (unitId : BitVec 8) (ext : BitVec 16) : RespWord := ext ++ unitId ++ code

/-- The response OK of a command that allocates no unit (R111). -/
def respOk : RespWord := respWord 0 0 0

/-- The response of an error (R250). -/
def respErr (e : CmdError) : RespWord := respWord e.code 0 e.ext

/-- `floor(sample_seconds × 1e9 / NANOS_PER_TICK)` in exact arithmetic, for a sample that is not negative (R131). -/
def ticksOfSeconds (seconds nanosPerTick : Ratio) : Nat :=
  (seconds.num.toNat * 1000000000 * nanosPerTick.den) / (seconds.den * nanosPerTick.num.toNat)

/-- `dir` of a distance: 1 for a distance of at least 0 (R236). -/
def dirOfDistance (distance : Ratio) : Bool := decide (0 ≤ distance.num)

/-- `n = floor(|distance| × steps_per_unit)` in exact arithmetic (R236). -/
def stepsOfDistance (distance stepsPerUnit : Ratio) : Nat :=
  (distance.num.natAbs * stepsPerUnit.num.toNat) / (distance.den * stepsPerUnit.den)

/-- The MOVE of a distance for a unit of that many steps per unit (R236); none when the step count does not fit the command
word, which the boundary must not issue. -/
def moveOfDistance (u : BitVec 8) (distance stepsPerUnit : Ratio) : Option Instr :=
  if stepsOfDistance distance stepsPerUnit < 2 ^ 32 then
    some (.move u (dirOfDistance distance) (BitVec.ofNat 32 (stepsOfDistance distance stepsPerUnit)))
  else none

end Sys2Proof.Machine
end

