-- ==== Sys2Proof/Machine/Ops.lean ====
section
/-! DEFINITION. The named operations over the registry, the memory spaces, the ring, the channel, the mailbox and the Synchronization State; and the one way a command error, a refusal and a model-level fault are taken. -/

namespace Sys2Proof.Machine

/-! ### The Unit Registry -/

/-- NSTEP (R20). -/
def State.nstep (s : State) : Nat := s.units.length

/-- The parameters meet their constraints (R8). -/
def State.paramsOk (s : State) : Bool := s.params.ok s.nstep

/-- `U[u]` (R10). A number at or above NSTEP names no unit: it reads as an entry at reset, in which nothing is enabled. -/
def State.unit (s : State) (u : Nat) : UnitState := s.units.getD u UnitState.reset

/-- `U[u] <- x` (R10). -/
def State.setUnit (s : State) (u : Nat) (x : UnitState) : State := { s with units := s.units.set u x }

/-- Update `U[u]` by `f`. -/
def State.modUnit (s : State) (u : Nat) (f : UnitState → UnitState) : State := s.setUnit u (f (s.unit u))

/-! ### Memory spaces (R70 to R77) -/

/-- The canonical form: addresses strictly rising. An unlisted address has no value, so no entry can equal it (log 12). -/
abbrev Memory.wf (m : Memory) : Prop := (m.map Prod.fst).Pairwise (· < ·)

/-- The byte at an address; none where nothing has been written (R87). -/
def Memory.read : Memory → Nat → Option Byte
  | [], _ => none
  | (a, b) :: m, k => if a = k then some b else Memory.read m k

/-- Store a byte, keeping the canonical form. -/
def Memory.write : Memory → Nat → Byte → Memory
  | [], k, v => [(k, v)]
  | (a, b) :: m, k, v =>
    if k < a then (k, v) :: (a, b) :: m
    else if k = a then (k, v) :: m
    else (a, b) :: Memory.write m k v

/-- `MemRead(space + i, 4)` (R11): the descriptor at index i, least significant byte at the lowest address (R73). -/
def Memory.readWord (m : Memory) (i : Nat) : Option Desc :=
  match Memory.read m (4 * i), Memory.read m (4 * i + 1), Memory.read m (4 * i + 2), Memory.read m (4 * i + 3) with
  | some b0, some b1, some b2, some b3 => some (b3 ++ b2 ++ b1 ++ b0)
  | _, _, _, _ => none

/-- `MemWrite(space + i, 4, w)` (R11). -/
def Memory.writeWord (m : Memory) (i : Nat) (w : Desc) : Memory :=
  Memory.write (Memory.write (Memory.write (Memory.write m
    (4 * i) (field w 0 8)) (4 * i + 1) (field w 8 8)) (4 * i + 2) (field w 16 8)) (4 * i + 3) (field w 24 8)

/-- The `k` descriptors of a space of `cap` words from index `start` upward, modulo `cap` (R77). -/
def Memory.readMany (m : Memory) (cap : Nat) : (start k : Nat) → Option (List Desc)
  | _, 0 => some []
  | start, k + 1 =>
    match Memory.readWord m (start % cap), Memory.readMany m cap (start + 1) k with
    | some w, some ws => some (w :: ws)
    | _, _ => none

/-- Store descriptors from index `start` upward, modulo `cap` (R77). -/
def Memory.writeMany (m : Memory) (cap : Nat) : (start : Nat) → List Desc → Memory
  | _, [] => m
  | start, w :: ws => Memory.writeMany (Memory.writeWord m (start % cap) w) cap (start + 1) ws

/-! ### The ring (R39, R150, R151) -/

/-- `count(u)`: descriptors written and not consumed (R39). -/
def State.count (s : State) (u : Nat) : Nat :=
  ((s.unit u).head + s.params.ringCap - (s.unit u).tail) % s.params.ringCap

/-- `RingPeek(u, i)` (R151). -/
def State.ringPeek (s : State) (u i : Nat) : Option Desc :=
  Memory.readWord (s.unit u).ring (((s.unit u).tail + i) % s.params.ringCap)

/-- The `k` oldest descriptors of the ring, in the order they were pushed (R151). -/
def State.ringOldest (s : State) (u k : Nat) : Option (List Desc) :=
  Memory.readMany (s.unit u).ring s.params.ringCap (s.unit u).tail k

/-- `RingPush(u, w)` (R150). -/
def State.ringPush (s : State) (u : Nat) (w : Desc) : State :=
  s.modUnit u fun x =>
    { x with
      ring := Memory.writeWord x.ring (x.head % s.params.ringCap) w
      head := (x.head + 1) % s.params.ringCap }

/-! ### The window and the channel (R180 to R189) -/

/-- The word `MemRead(WIN[u] + tx_pos, 4)` the transmitter fetches (R181). -/
def State.fetchWord (s : State) (u : Nat) : Option Desc :=
  Memory.readWord (s.unit u).win ((s.unit u).txPos % s.params.winSize)

/-- `emit(u, level, ticks)` (R12, R48). -/
def UnitState.emit (x : UnitState) (level : Bool) (ticks : Dur) : UnitState :=
  { x with trace := x.trace ++ [⟨level, ticks⟩] }

/-- `ChannelArm(u, n)` (R186). -/
def UnitState.channelArm (x : UnitState) (n : Nat) : UnitState :=
  { x with txPos := 0, txAvail := n, thrPending := false, endPending := false, txRun := true }

/-- `ChannelHalt(u)` (R187). -/
def UnitState.channelHalt (x : UnitState) : UnitState :=
  { x with txRun := false, txPos := 0, txAvail := 0, thrPending := false, endPending := false, stepOut := false }

/-! ### Taking an error, a refusal, a model-level fault (R12, R250, R251) -/

/-- Append to the observed responses (R48). -/
def State.log (s : State) (e : Event) : State := { s with events := s.events ++ [e] }

/-- `respond(w)`: complete a command (R12). -/
def State.respond (s : State) (w : RespWord) : State := s.log (.response w)

/-- `raise e`: the command makes no state change and responds with the error (R12, R250). It is the block's one form of
exception: nothing is saved, there is no handler and no return. -/
def State.raise (s : State) (e : CmdError) : State := s.respond (respErr e)

/-- `refuse`: no state change, no response, the run is marked refused (R12, part 1 of 93; log 10). -/
def State.refuse (s : State) (r : Refusal) : State := { s with refused := some r }

/-- `fault(ENC_SHORT)`: the sticky mark (R51, R139). -/
def State.faultEncShort (s : State) : State := { s with faults := { s.faults with encShort := true } }

/-- `fault(TICK_OVERFLOW)`: the sticky mark (R51, R140). -/
def State.faultTickOverflow (s : State) : State := { s with faults := { s.faults with tickOverflow := true } }

/-- `fault(BAD_DESCRIPTOR)` of channel u: the sticky mark, and TX[u] takes no further step (R12, R51, R188). -/
def State.faultBadDescriptor (s : State) (u : Nat) : State :=
  { s with faults := { s.faults with badDescriptor := true } }.modUnit u fun x => { x with txDead := true }

/-- The agent has no enabled step: its turn leaves the state as it is (log 3). -/
def waits (s : State) : Host.Outcome State Fault Refusal := .next s

/-! ### Output of a descriptor (R181, R182, R188) -/

/-- Output the descriptor `w` on channel u and advance the fetch pointer; at a half boundary latch the threshold event
(R181, R183). Both durations 0 is `fault(BAD_DESCRIPTOR)` (R188). DESIGN CHOICE (log 32, unsafe) where R307 leaves a model the
option to flag a word with exactly one zero duration: it is output like any other (R189), and nothing is flagged. -/
def State.transmit (s : State) (u : Nat) (w : Desc) : State :=
  if bothZero w then s.faultBadDescriptor u
  else
    s.modUnit u fun x =>
      { (x.emit (lvl0 w) (dur0 w)).emit (lvl1 w) (dur1 w) with
        stepOut := restLevel w
        txPos := (x.txPos + 1) % s.params.winSize
        txAvail := x.txAvail - 1
        thrPending := x.thrPending || decide ((x.txPos + 1) % s.params.winSize % s.params.half = 0) }

/-- Meet the marker: stop, and latch the completion event (R182). -/
def State.endTrain (s : State) (u : Nat) : State :=
  s.modUnit u fun x => { x with txRun := false, stepOut := false, endPending := true }

/-- What TX[u] does with the word it fetched: the marker ends the train (R182), any other word is output (R181). -/
def State.consume (s : State) (u : Nat) (w : Desc) : State :=
  if w = marker then s.endTrain u else s.transmit u w

/-! ### The mailbox and the Synchronization State (R156, R215) -/

/-- `post(m)` (R156). -/
def State.post (s : State) (m : Mask) : State := { s with workerSig := s.workerSig ||| m }

/-- `wake()` (R215): the blocked START responds OK. -/
def State.wake (s : State) : State :=
  if s.waiterValid then { s.log (.startDone s.waiterId respOk) with waiterValid := false } else s

/-- Clear the active bit of unit u and decrement the count; at 0, wake (R197, R214). -/
def State.retire (s : State) (u : Nat) : State :=
  let s' := { s with activeMask := s.activeMask &&& ~~~ unitBit u, activeCount := s.activeCount - 1 }
  if s'.activeCount = 0 then s'.wake else s'

end Sys2Proof.Machine
end

