-- ==== Sys2Proof/Machine/Flags.lean ====
section
/-! DEFINITION. Derived predicates and status words: ring and train predicates, the start-cycle phase, INT_ST and irq, and the enabling condition of every internal step. -/

namespace Sys2Proof.Machine

/-- `empty(u)` (R39). -/
def State.empty (s : State) (u : Nat) : Bool := decide ((s.unit u).head = (s.unit u).tail)

/-- `full(u)` (R39). -/
def State.full (s : State) (u : Nat) : Bool := decide (((s.unit u).head + 1) % s.params.ringCap = (s.unit u).tail)

/-- `first_phase(u)` (R31): the next descriptor is the first of a step. -/
def State.firstPhase (s : State) (u : Nat) : Bool := decide ((s.unit u).pendingTicks = 0)

/-- `drained(u)` (R41). -/
def State.drained (s : State) (u : Nat) : Bool :=
  decide ((s.unit u).stepsRemaining = 0) && decide ((s.unit u).pendingTicks = 0) && (s.unit u).endEmitted

/-- `enough(u)` (R41, D13). -/
def State.enough (s : State) (u : Nat) : Bool := s.full u || (s.unit u).endEmitted

/-- The phase of a start cycle (R46). -/
inductive SyncPhase where
  | idle
  | armed
  | draining
deriving DecidableEq, Repr

/-- `sync_phase` (R46, R210). -/
def State.syncPhase (s : State) : SyncPhase :=
  if !s.waiterValid then .idle
  else if (List.range s.nstep).any fun u => s.activeMask.getLsbD u && (s.unit u).armed then .draining
  else .armed

/-- A bit at position i of a 32-bit status word. -/
def bitAt (i : Nat) (b : Bool) : BitVec 32 := if b then BitVec.twoPow 32 i else 0

/-- `INT_ST` (R115): threshold latches from bit 0, completion latches from bit 16. -/
def State.intSt (s : State) : BitVec 32 :=
  (List.range s.nstep).foldl
    (fun w u => w ||| bitAt u (s.unit u).thrPending ||| bitAt (16 + u) (s.unit u).endPending) 0

/-- `irq` (R49): some latch is set. -/
def State.irq (s : State) : Bool :=
  (List.range s.nstep).any fun u => (s.unit u).thrPending || (s.unit u).endPending

/-- The worker takes no further step after a model-level fault of its own (R12, R139, R140). -/
def State.workerDead (s : State) : Bool := s.faults.encShort || s.faults.tickOverflow

/-- The worker can have a step: it exists (R153, R164) and has met no fault. -/
def State.workerLive (s : State) : Bool := s.workerCreated && !s.workerDead

/-- WK_TAKE is enabled (R157). -/
def State.canTake (s : State) : Bool := s.workerLive && decide (s.wkState = .wait) && decide (s.workerSig ≠ 0)

/-- The worker is filling unit u, which is set up, and its ring has space (R132, R133 to R135). -/
def State.canFill (s : State) (u : Nat) : Bool :=
  s.workerLive && decide (s.wkState = .fill) && decide (s.wkUnit = some u) && (s.unit u).setup && !s.full u

/-- ENC_FIRST u is enabled (R133). -/
def State.canEncFirst (s : State) (u : Nat) : Bool :=
  s.canFill u && decide ((s.unit u).pendingTicks = 0) && decide ((s.unit u).stepsRemaining ≠ 0)

/-- ENC_CONT u is enabled (R134). -/
def State.canEncCont (s : State) (u : Nat) : Bool := s.canFill u && decide ((s.unit u).pendingTicks ≠ 0)

/-- ENC_END u is enabled (R135). -/
def State.canEncEnd (s : State) (u : Nat) : Bool :=
  s.canFill u && decide ((s.unit u).pendingTicks = 0) && decide ((s.unit u).stepsRemaining = 0) && !(s.unit u).endEmitted

/-- WK_NEXT is enabled for the current unit u (R159). -/
def State.canNext (s : State) (u : Nat) : Bool :=
  s.workerLive && decide (s.wkState = .fill) && decide (s.wkUnit = some u) &&
    (!(s.unit u).setup || s.full u || s.drained u)

/-- WK_ARM is enabled for the current unit u (R160). -/
def State.canArmPass (s : State) (u : Nat) : Bool :=
  s.workerLive && decide (s.wkState = .armPass) && decide (s.wkUnit = some u)

/-- The unit is ready to be armed (R160). -/
def State.armReady (s : State) (u : Nat) : Bool := (s.unit u).setup && !(s.unit u).armed && s.enough u

/-- TX[u] may fetch: it runs, it is not stalled (R184) and it has met no fault (R12). -/
def State.txReady (s : State) (u : Nat) : Bool :=
  (s.unit u).txRun && decide (0 < (s.unit u).txAvail) && !(s.unit u).txDead

/-- A unit is fully idle (R237): not active, not transmitting, not being served and with no signal pending. -/
def State.fullyIdle (s : State) (u : Nat) : Bool :=
  !s.activeMask.getLsbD u && !(s.unit u).txRun && !(decide (s.wkState ≠ .wait) && s.wkMask.getLsbD u) &&
    !s.workerSig.getLsbD u

end Sys2Proof.Machine
end

