-- ==== Sys2Proof/Machine/Encoder.lean ====
section
/-! DEFINITION. The Waveform Encoder: ENC_FIRST, ENC_CONT, ENC_END (40_waveform_encoder.md). -/

namespace Sys2Proof.Machine

/-- The ticks of a sample in seconds, by the block's own `NANOS_PER_TICK` (R131): the boundary's conversion of what the
oracle returns. -/
def State.sampleTicks (s : State) (seconds : Ratio) : Nat := ticksOfSeconds seconds s.params.nanosPerTick

/-- `next(motion)`: the answer of the oracle to the next call, in ticks (R36, R131): the sample the environment listed,
and beyond the list the free value (log 9). -/
def UnitState.nextSample (x : UnitState) : Nat :=
  match x.motion with
  | some m => m.samples.getD x.motionCalls.toNat (Config.freeSample m.train x.motionCalls.toNat)
  | none => Config.freeSample 0 x.motionCalls.toNat

/-- Leave `p` ticks of the current step pending; with none left the step is complete and counted (R136). -/
def UnitState.carry (x : UnitState) (p : Nat) : UnitState :=
  { x with
    pendingTicks := BitVec.ofNat 32 p
    stepsRemaining := if p = 0 then x.stepsRemaining - 1 else x.stepsRemaining }

/-- The call of the oracle has been made (R36, R133). -/
def UnitState.called (x : UnitState) : UnitState := { x with motionCalls := x.motionCalls + 1 }

/-- ENC_FIRST with the sample `t` (R133): the two faults (R139, R140; the call counts, log 11), else one DESC_STEP word. -/
def State.encodeFirst (s : State) (u t : Nat) : State :=
  if Config.tickLimit ≤ t then (s.modUnit u UnitState.called).faultTickOverflow
  else if t ≤ s.params.pulse then (s.modUnit u UnitState.called).faultEncShort
  else
    ((s.modUnit u UnitState.called).ringPush u (stepWord t s.params.pulse)).modUnit u
      fun x => x.carry (firstCarry t s.params.pulse)

/-- ENC_FIRST u (R133). -/
def execEncFirst (unit : BitVec 8) (s : State) : Host.Outcome State Fault Refusal :=
  if s.canEncFirst unit.toNat then .next (s.encodeFirst unit.toNat (s.unit unit.toNat).nextSample)
  else waits s

/-- ENC_CONT u (R134). -/
def execEncCont (unit : BitVec 8) (s : State) : Host.Outcome State Fault Refusal :=
  if s.canEncCont unit.toNat then
    let p := (s.unit unit.toNat).pendingTicks.toNat
    .next ((s.ringPush unit.toNat (lowWord p)).modUnit unit.toNat fun x => x.carry (contCarry p))
  else waits s

/-- ENC_END u (R135). -/
def execEncEnd (unit : BitVec 8) (s : State) : Host.Outcome State Fault Refusal :=
  if s.canEncEnd unit.toNat then
    .next ((s.ringPush unit.toNat marker).modUnit unit.toNat fun x => { x with endEmitted := true })
  else waits s

end Sys2Proof.Machine
end

