-- ==== Sys2Proof/Machine/Handler.lean ====
section
/-! DEFINITION. The Hardware Completion Handler: H_THR, H_END (43_completion_handler.md). -/

namespace Sys2Proof.Machine

/-- Refill WIN[u] with the descriptors `ws` taken from the ring's tail, and clear the threshold latch (R196). -/
def State.refill (s : State) (u : Nat) (ws : List Desc) : State :=
  s.modUnit u fun x =>
    { x with
      win := Memory.writeMany x.win s.params.winSize x.hwOffset ws
      tail := (x.tail + ws.length) % s.params.ringCap
      hwOffset := (x.hwOffset + ws.length) % s.params.winSize
      txAvail := x.txAvail + ws.length
      thrPending := false }

/-- Clear the threshold latch and copy nothing. -/
def State.clearThreshold (s : State) (u : Nat) : State := s.modUnit u fun x => { x with thrPending := false }

/-- H_THR u (R196): copy up to half a window and, when at least one descriptor was copied, signal the worker. DESIGN CHOICE
(log 31, unsafe) for a unit with `armed` = 0, which a MOVE with the latch still set reaches: R196 enables the service by the
latch alone, while R52, R78 and C2 let H_THR write `tail` only while `armed` = 1. The model keeps both: the service is taken
and its latch cleared, and nothing is copied. -/
def execHThr (unit : BitVec 8) (s : State) : Host.Outcome State Fault Refusal :=
  if (s.unit unit.toNat).thrPending then
    if (s.unit unit.toNat).armed then
      match s.ringOldest unit.toNat (min s.params.half (s.count unit.toNat)) with
      | some ws =>
        .next (if ws.length = 0 then s.refill unit.toNat ws
          else (s.refill unit.toNat ws).post (unitBit unit.toNat))
      | none => .fault .unwrittenWord
    else .next (s.clearThreshold unit.toNat)
  else waits s

/-- The unit's completion is served: the channel is halted, and the bit, if it was set, is retired; a wake requests a
context switch (R197, R200). -/
def State.complete (s : State) (u : Nat) : State :=
  let s' := s.modUnit u UnitState.channelHalt
  if s.activeMask.getLsbD u then
    let t := s'.retire u
    if t.activeCount = 0 then { t with ctxSwitchReq := true } else t
  else s'

/-- H_END u (R197). -/
def execHEnd (unit : BitVec 8) (s : State) : Host.Outcome State Fault Refusal :=
  if (s.unit unit.toNat).endPending then .next (s.complete unit.toNat) else waits s

end Sys2Proof.Machine
end

