-- ==== Sys2Proof/Machine/Registry.lean ====
section
/-! DEFINITION. The boundary commands that load the Unit Registry: SETUP, MOVE (45_setup_move.md). -/

namespace Sys2Proof.Machine

/-- The lowest index with `setup` = 0 (R230, R231). -/
def State.freeUnit (s : State) : Option Nat := (List.range s.nstep).find? fun u => !(s.unit u).setup

/-- The configuration a SETUP stores (R230). -/
def SideInputs.cfg (i : SideInputs) (stepPin dirPin : BitVec 8) : UnitCfg :=
  { stepPin := stepPin, dirPin := dirPin, stepsPerUnit := i.cfgSpu, invStepsPerUnit := i.cfgInv,
    maxSpeed := i.cfgVmax, maxAccel := i.cfgAmax }

/-- Claim unit u (R230): configuration, `setup`, the worker, and the response with the unit id. -/
def State.claim (s : State) (u : Nat) (c : UnitCfg) : State :=
  { s.modUnit u fun x => { x with cfg := c, setup := true } with workerCreated := true }.respond
    (respWord 0 (BitVec.ofNat 8 u) 0)

/-- SETUP s, d (R230): the tests in R231's order, then the claim. A failed SETUP changes nothing but the response;
the pin locks it had acquired are released, which is the collaborator's state (R234, log 27). -/
def execSetup (stepPin dirPin : BitVec 8) (s : State) : Host.Outcome State Fault Refusal :=
  if !s.side.pinValid then .next (s.raise .invalidPin)
  else
    match s.freeUnit with
    | none => .next (s.raise .noMoreUnits)
    | some u =>
      if !s.side.allocOk then .next (s.raise .notEnoughMemory)
      else
        match s.side.pinlock, s.side.configure with
        | some e, _ => .next (s.raise (.external e))
        | none, some e => .next (s.raise (.external e))
        | none, none => .next (s.claim u (s.side.cfg stepPin dirPin))

/-- The handle `prepare(constraints)` returns: a fresh sequence, the n-th (R36, R109, R235). -/
def SideInputs.prepare (i : SideInputs) (n : Nat) : Motion :=
  { train := n, v0 := i.motV0, vTarget := i.motVt, accel := i.motA, jerk := i.motJ, samples := i.samples }

/-- The effect of a MOVE that passed its checks (R235). -/
def State.load (s : State) (u : Nat) (dir : Bool) (n : BitVec 32) : State :=
  { s.modUnit u fun x =>
      { x with
        direction := dir
        motion := some (s.side.prepare (s.prepares + 1))
        motionCalls := 0
        stepsRemaining := n
        head := 0
        tail := 0
        pendingTicks := 0
        hwOffset := 0
        endEmitted := false
        armed := false } with
    prepares := s.prepares + 1 }.respond respOk

/-- The MOVE command D0's call `move(unit, distance, …)` becomes at the API boundary (R118, R236): the step count comes from
the unit's own `cfg.steps_per_unit`, the one configuration register a rule reads (R21); none when it does not fit. A call for
a unit that is not set up becomes a MOVE too, which answers its error (R235). -/
def State.moveCall (s : State) (unit : BitVec 8) (distance : Ratio) : Option Instr :=
  moveOfDistance unit distance (s.unit unit.toNat).cfg.stepsPerUnit

/-- MOVE u, dir, n (R235): the two errors, then the precondition of R237 (log 16), then the effect. -/
def execMove (unit : BitVec 8) (dir : Bool) (steps : BitVec 32) (s : State) : Host.Outcome State Fault Refusal :=
  if s.nstep ≤ unit.toNat then .next (s.raise .invalidUnit)
  else if !(s.unit unit.toNat).setup then .next (s.raise .unitNotSetup)
  else if !s.fullyIdle unit.toNat then .next (s.refuse .busyMove)
  else .next (s.load unit.toNat dir steps)

end Sys2Proof.Machine
end

