-- ==== Sys2Proof/Machine/Sync.lean ====
section
/-! DEFINITION. The Synchronization Core's commands: START, STOP (44_sync_start_stop.md). -/

namespace Sys2Proof.Machine

/-- `dir_out[u] <- U[u].direction` for the units of `m` (R211). -/
def State.driveDirections (s : State) (m : Mask) : State :=
  { s with
    units := s.units.mapIdx fun u x => if m.getLsbD u then { x with dirOut := x.direction } else x }

/-- Some unit of `m` is not set up (R212). -/
def State.someNotSetup (s : State) (m : Mask) : Bool :=
  (List.range s.nstep).any fun u => m.getLsbD u && !(s.unit u).setup

/-- The effect of a START that passed its checks (R211): directions, mask, count, waiter, post. -/
def State.begin (s : State) (m : Mask) (caller : BitVec 32) : State :=
  { s.driveDirections m with
    activeMask := s.activeMask ||| m
    activeCount := popcount (s.activeMask ||| m)
    waiterValid := true
    waiterId := caller }.post m

/-- START m, c (R211): the checks of R212 in their order, the preconditions of R213 (log 15), the effect. On success
there is no response yet: it is the start-done event (R111, R215). -/
def execStart (mask : Mask) (caller : BitVec 32) (s : State) : Host.Outcome State Fault Refusal :=
  if beyond mask s.nstep ≠ 0 then .next (s.raise .invalidUnit)
  else if mask = 0 then .next (s.refuse .emptyStart)
  else if s.waiterValid ∨ s.activeCount ≠ 0 then .next (s.refuse .secondStart)
  else if s.someNotSetup mask then .next (s.raise .unitNotSetup)
  else .next (s.begin mask caller)

/-- STOP's action for unit u (R214). -/
def State.stopUnit (m : Mask) (s : State) (u : Nat) : State :=
  if m.getLsbD u && s.activeMask.getLsbD u then (s.modUnit u UnitState.channelHalt).retire u else s

/-- The whole critical section of a STOP: units 0 .. NSTEP-1 in ascending order (R214). -/
def State.stopAll (s : State) (m : Mask) : State := (List.range s.nstep).foldl (State.stopUnit m) s

/-- STOP m (R214). -/
def execStop (mask : Mask) (s : State) : Host.Outcome State Fault Refusal :=
  .next ((s.stopAll mask).respond respOk)

end Sys2Proof.Machine
end

