-- ==== Sys2Proof/Machine/Transmitter.lean ====
section
/-! DEFINITION. The channel transmitter: TX_DESC, TX_END, and the three descriptor classes as what a transmitter does with the word it fetched (42_transmitter.md). -/

namespace Sys2Proof.Machine

/-- TX_DESC u (R181): enabled when the fetched word is not the marker. -/
def execTxDesc (unit : BitVec 8) (s : State) : Host.Outcome State Fault Refusal :=
  if s.txReady unit.toNat then
    match s.fetchWord unit.toNat with
    | some w => if w = marker then waits s else .next (s.transmit unit.toNat w)
    | none => .fault .unwrittenWord
  else waits s

/-- TX_END u (R182): enabled when the fetched word is the marker. -/
def execTxEnd (unit : BitVec 8) (s : State) : Host.Outcome State Fault Refusal :=
  if s.txReady unit.toNat then
    match s.fetchWord unit.toNat with
    | some w => if w = marker then .next (s.endTrain unit.toNat) else waits s
    | none => .fault .unwrittenWord
  else waits s

/-- DESC_END, the marker, fetched by the selected transmitter (R102, R182; log 5). -/
def execDescEnd (s : State) : Host.Outcome State Fault Refusal :=
  if s.txReady s.txSel.toNat then .next (s.consume s.txSel.toNat marker) else waits s

/-- DESC_STEP fetched by the selected transmitter (R102, R181; log 5). -/
def execDescStep (d0 d1 : Dur) (s : State) : Host.Outcome State Fault Refusal :=
  if s.txReady s.txSel.toNat then .next (s.consume s.txSel.toNat (desc true d0 false d1)) else waits s

/-- DESC_LOW fetched by the selected transmitter (R102, R181; log 5). -/
def execDescLow (d0 d1 : Dur) (s : State) : Host.Outcome State Fault Refusal :=
  if s.txReady s.txSel.toNat then .next (s.consume s.txSel.toNat (desc false d0 false d1)) else waits s

end Sys2Proof.Machine
end

