-- ==== Sys2Proof/Machine/Worker.lean ====
section
/-! DEFINITION. The Acceleration Worker's own steps: WK_TAKE, WK_NEXT, WK_ARM (41_ring_and_worker.md). -/

namespace Sys2Proof.Machine

/-- WK_TAKE (R157): latch the mailbox and go to FILL at the lowest signalled unit. -/
def execWkTake (s : State) : Host.Outcome State Fault Refusal :=
  if s.canTake then
    .next { s with wkMask := s.workerSig, workerSig := 0, wkUnit := lowbit s.workerSig, wkState := .fill }
  else waits s

/-- Leave unit u in FILL: go to the next signalled unit, or to ARMPASS at the lowest (R159). -/
def State.leaveFill (s : State) (u : Nat) : State :=
  match nextbit s.wkMask u with
  | some n => { s with wkUnit := some n }
  | none => { s with wkState := .armPass, wkUnit := lowbit s.wkMask }

/-- WK_NEXT (R159). -/
def execWkNext (s : State) : Host.Outcome State Fault Refusal :=
  match s.wkUnit with
  | some u => if s.canNext u then .next (s.leaveFill u) else waits s
  | none => waits s

/-- Leave unit u in ARMPASS: go to the next signalled unit, or back to WAIT (R160). -/
def State.leaveArm (s : State) (u : Nat) : State :=
  match nextbit s.wkMask u with
  | some n => { s with wkUnit := some n }
  | none => { s with wkState := .wait, wkUnit := none }

/-- Copy the oldest window `ws` of unit u's ring to WIN[u][0 ..] and arm the channel (R160). -/
def State.armUnit (s : State) (u : Nat) (ws : List Desc) : State :=
  s.modUnit u fun x =>
    { x.channelArm ws.length with
      win := Memory.writeMany x.win s.params.winSize 0 ws
      tail := (x.tail + ws.length) % s.params.ringCap
      hwOffset := ws.length % s.params.winSize
      armed := true }

/-- WK_ARM (R160): arm the current unit if it is ready, and never one already armed (R161); then move on. -/
def execWkArm (s : State) : Host.Outcome State Fault Refusal :=
  match s.wkUnit with
  | none => waits s
  | some u =>
    if s.canArmPass u then
      if s.armReady u then
        match s.ringOldest u (min (s.count u) s.params.winSize) with
        | some ws => .next ((s.armUnit u ws).leaveArm u)
        | none => .fault .unwrittenWord
      else .next (s.leaveArm u)
    else waits s

end Sys2Proof.Machine
end

