-- ==== Sys2Proof/Machine/Dispatch.lean ====
section
/-! DEFINITION. One arm per operation: the meaning each constructor of `Instr` calls. -/

namespace Sys2Proof.Machine

def exec (i : Instr) (s : State) : Host.Outcome State Fault Refusal :=
  match i with
  | .setup sp dp => Sys2Proof.Machine.execSetup sp dp s
  | .move u d n => Sys2Proof.Machine.execMove u d n s
  | .start m c => Sys2Proof.Machine.execStart m c s
  | .stop m => Sys2Proof.Machine.execStop m s
  | .wkTake => Sys2Proof.Machine.execWkTake s
  | .encFirst u => Sys2Proof.Machine.execEncFirst u s
  | .encCont u => Sys2Proof.Machine.execEncCont u s
  | .encEnd u => Sys2Proof.Machine.execEncEnd u s
  | .wkNext => Sys2Proof.Machine.execWkNext s
  | .wkArm => Sys2Proof.Machine.execWkArm s
  | .txDesc u => Sys2Proof.Machine.execTxDesc u s
  | .txEnd u => Sys2Proof.Machine.execTxEnd u s
  | .hThr u => Sys2Proof.Machine.execHThr u s
  | .hEnd u => Sys2Proof.Machine.execHEnd u s
  | .descEnd => Sys2Proof.Machine.execDescEnd s
  | .descStep a b => Sys2Proof.Machine.execDescStep a b s
  | .descLow a b => Sys2Proof.Machine.execDescLow a b s

end Sys2Proof.Machine
end

