-- ==== Sys2Proof/Machine/Fetch.lean ====
section
/-! DEFINITION. Where the next operation comes from: the turn at the head of the agenda, the agents' own choice of step, the word a turn decodes to, and how a word is placed so that it is the next one run. -/

namespace Sys2Proof.Machine

/-- The worker's one enabled step (R132, R153, R158), or none: it does not exist, is blocked in WAIT, or has met a fault. -/
def State.workerChoice (s : State) : Option Instr :=
  if s.canTake then some .wkTake
  else
    match s.wkUnit with
    | none => none
    | some u =>
      if s.canNext u then some .wkNext
      else if s.canEncCont u then some (.encCont (BitVec.ofNat 8 u))
      else if s.canEncFirst u then some (.encFirst (BitVec.ofNat 8 u))
      else if s.canEncEnd u then some (.encEnd (BitVec.ofNat 8 u))
      else if s.canArmPass u then some .wkArm
      else none

/-- The service of channel u's latches: threshold before completion (R198). -/
def State.serviceOf (s : State) (u : Nat) : Option Instr :=
  if (s.unit u).thrPending then some (.hThr (BitVec.ofNat 8 u))
  else if (s.unit u).endPending then some (.hEnd (BitVec.ofNat 8 u))
  else none

/-- The handler's next service: ascending channel number (R263), or none while `irq` = 0 (R262). -/
def State.handlerChoice (s : State) : Option Instr := (List.range s.nstep).findSome? s.serviceOf

/-- The operation TX[u] takes: the class of the word it fetches (R102), or TX_DESC itself for a word of no class, which
is output as its fields say (R188), and when there is nothing to fetch (R184). -/
def State.txChoice (s : State) (u : BitVec 8) : Instr :=
  if s.txReady u.toNat then
    match s.fetchWord u.toNat with
    | some w =>
      match decodeDescriptor w with
      | .ok i => i
      | .error _ => .txDesc u
    | none => .txDesc u
  else .txDesc u

/-- What a turn comes to: an operation to run, no enabled step, or a word the model gives no meaning. -/
inductive Fetched where
  | run (i : Instr) (s : State)
  | idle (s : State)
  | reserved (r : Refusal) (s : State)

/-- An agent's choice as a fetched operation. -/
def Fetched.ofChoice (c : Option Instr) (s : State) : Fetched :=
  match c with
  | some i => .run i s
  | none => .idle s

/-- The operation of a turn, and the state it runs on: the host's side inputs presented, the transmitter selected. -/
def State.fetchTurn (s : State) : Turn → Fetched
  | .host w i =>
    match decodeCommand w with
    | .ok op => .run op { s with side := i }
    | .error _ => .reserved .reservedCommand s
  | .operation w =>
    match decodeOperation w with
    | .ok op => .run op s
    | .error _ => .reserved .reservedOperation s
  | .worker => .ofChoice s.workerChoice s
  | .handler => .ofChoice s.handlerChoice s
  | .tx u => .run (s.txChoice u) { s with txSel := u }

/-- A step begins: the context-switch pulse of the step before is over (R49, R200; log 14). -/
def State.beginStep (s : State) : State := { s with ctxSwitchReq := false }

/-- The turn at the head of the agenda is taken off it; with an empty agenda no agent has a turn (R292; log 2). -/
def State.fetch (s : State) : Fetched :=
  match s.agenda with
  | [] => .idle s.beginStep
  | t :: rest => { s.beginStep with agenda := rest }.fetchTurn t

/-- Put a turn at the head of the agenda. -/
def State.pushTurn (s : State) (t : Turn) : State := { s with agenda := t :: s.agenda }

/-- Place a descriptor where the transmitter of channel 0 fetches it, with the channel running, and give that
transmitter the turn (log 6). -/
def State.placeDescriptor (s : State) (w : Desc) : State :=
  { s.modUnit 0 fun x =>
      { x with
        win := Memory.writeWord x.win (x.txPos % s.params.winSize) w
        txRun := true
        txAvail := if x.txAvail = 0 then 1 else x.txAvail
        txDead := false } with
    txSel := 0 }.pushTurn (.tx 0)

/-- Place a word where the next step fetches it (log 6): a command word on the host's turn, an operation word on a turn
of its agent, a descriptor in the window of channel 0. -/
def State.placeWord (s : State) : InstrWord → State
  | .command w => s.pushTurn (.host w s.side)
  | .operation w => s.pushTurn (.operation w)
  | .descriptor w => s.placeDescriptor w

end Sys2Proof.Machine
end

