-- ==== Sys2Proof/Machine/Step.lean ====
section
/-! DEFINITION. One step of the block, and the placing of a word as the next one it runs. -/

namespace Sys2Proof.Machine

/-- One step (R13): the agent whose turn it is takes one operation. Parameters that break R8 are refused (U19), and a
run that is marked refused goes no further (R51; log 10). -/
def step (s : State) : Host.Outcome State Fault Refusal :=
  if s.paramsOk then
    match s.refused with
    | some r => .refused r
    | none =>
      match s.fetch with
      | .run i s' => exec i s'
      | .idle s' => waits s'
      | .reserved r s' => .next (s'.refuse r)
  else .refused .badParameters

/-- `s` with a table row's word placed so that the very next step runs it (log 6). -/
def State.withFetchWord (s : State) (nbits w : Nat) : State := s.placeWord (tableWord nbits w)

end Sys2Proof.Machine
end

