-- ==== Sys2Proof/Safety.lean ====
section
/-! DEFINITION. What counts as a safe state of the block, in the terms claims use: the clean run, the stalled channel, and the invariants the spec states of the Synchronization State, the worker, the ring and the window. -/

namespace Sys2Proof.Machine

/-- No model-level fault has been met and nothing has been refused (R51): the premise of a claim about a clean run. -/
def State.clean (s : State) : Prop := s.faults = ModelFaults.none ∧ s.refused = none

/-- The channel is stalled: it runs and has nothing to fetch (R184). -/
def State.stalled (s : State) (u : Nat) : Prop := (s.unit u).txRun = true ∧ (s.unit u).txAvail = 0

/-- The step of the block takes an operation: the parameters are legal and the run is not marked refused. -/
def State.steps (s : State) : Prop := s.paramsOk = true ∧ s.refused = none

/-- The invariants of the Synchronization State (R43, R45). -/
structure SyncInv (s : State) : Prop where
  count : s.activeCount = popcount s.activeMask
  waiter : s.waiterValid = true ↔ 0 < s.activeCount

/-- Every bit of a mask names a unit (R157, R212: no bit at or above NSTEP). -/
def MaskIn (m : Mask) (nstep : Nat) : Prop := ∀ i, nstep ≤ i → m.getLsbD i = false

/-- The worker's registers agree with its position in the loop (R47, R153, R164). -/
structure WorkerInv (s : State) : Prop where
  nstepLe : s.nstep ≤ Config.maxUnits
  active : MaskIn s.activeMask s.nstep
  signal : MaskIn s.workerSig s.nstep
  taken : MaskIn s.wkMask s.nstep
  /-- In WAIT no unit is served, and in FILL and ARMPASS one is (R153). -/
  serves : s.wkState = .wait ↔ s.wkUnit = none
  /-- The unit served is one of the mask taken (R157, R159, R160). -/
  served : ∀ u, s.wkUnit = some u → s.wkMask.getLsbD u = true
  /-- A set-up unit exists only after the worker was created (R164). -/
  created : ∀ u, (s.unit u).setup = true → s.workerCreated = true

/-- The pointers of a unit stay in their spaces (R26, R27, R28, R34, R35). -/
structure PointersIn (p : Params) (x : UnitState) : Prop where
  head : x.head < p.ringCap
  tail : x.tail < p.ringCap
  hwOffset : x.hwOffset < p.winSize
  txPos : x.txPos < p.winSize
  txAvail : x.txAvail ≤ p.winSize

/-- Descriptors pushed and not consumed (R39). -/
def UnitState.outstanding (p : Params) (x : UnitState) : Nat := (x.head + p.ringCap - x.tail) % p.ringCap

/-- The window occupancy bound of R86 in its inductive form: between two crossings the channel has `tx_pos mod HALF`
slots of the current half behind it; with a threshold event pending at most the other half is still valid. -/
def Occupancy (p : Params) (x : UnitState) : Prop :=
  x.txAvail + x.txPos % p.half ≤ (if x.thrPending then p.half else p.winSize)

/-- The ring and window discipline of one unit (R78, R83, R86, R87). -/
structure UnitInv (p : Params) (x : UnitState) : Prop where
  pointers : PointersIn p x
  occupancy : Occupancy p x
  /-- While the channel runs, the refill position is where the valid descriptors end (R28, R35). -/
  refillAt : x.txRun = true → x.hwOffset = (x.txPos + x.txAvail) % p.winSize
  /-- A channel runs only once it was armed, and a MOVE, which clears `armed`, needs it halted (R29, R160, R237). -/
  runsArmed : x.txRun = true → x.armed = true
  /-- Every descriptor between `tail` and `head` has been written (R78). -/
  ringWritten : ∀ i, i < x.outstanding p → (Memory.readWord x.ring ((x.tail + i) % p.ringCap)).isSome
  /-- Every descriptor a running channel may fetch has been written (R83). -/
  winWritten : x.txRun = true → ∀ i, i < x.txAvail → (Memory.readWord x.win ((x.txPos + i) % p.winSize)).isSome
  /-- A partly encoded step has not been counted yet (R134, R136). -/
  pending : x.pendingTicks ≠ 0 → x.stepsRemaining ≠ 0
  /-- The marker is pushed only when nothing else is owed (R132, R135). -/
  endLast : x.endEmitted = true → x.stepsRemaining = 0 ∧ x.pendingTicks = 0

/-- The ring and window discipline of every unit, under legal parameters. -/
structure ChannelInv (s : State) : Prop where
  params : s.paramsOk = true
  units : ∀ u, u < s.nstep → UnitInv s.params (s.unit u)

/-- A memory space is in canonical form and lists no address outside its `cap` descriptors (R70, R77). -/
def SpaceIn (m : Memory) (cap : Nat) : Prop := m.wf ∧ ∀ c ∈ m, c.1 < 4 * cap

/-- Every memory space of every unit is (R70). -/
def MemoryInv (s : State) : Prop :=
  ∀ u, u < s.nstep → SpaceIn (s.unit u).ring s.params.ringCap ∧ SpaceIn (s.unit u).win s.params.winSize

/-- The descriptors in unit u's ring, oldest first. -/
def State.ringContents (s : State) (u : Nat) : Option (List Desc) := s.ringOldest u (s.count u)

/-- The descriptors a running channel has still to fetch, in order; none when it does not run. -/
def State.winContents (s : State) (u : Nat) : Option (List Desc) :=
  if (s.unit u).txRun then
    Memory.readMany (s.unit u).win s.params.winSize (s.unit u).txPos (s.unit u).txAvail
  else some []

/-- The step pulses of a list of descriptors (R48). -/
def pulsesIn (ws : List Desc) : Nat := (ws.map pulsesOf).sum

/-- The step pulses a unit has output (R48): segments with level 1 and ticks > 0. -/
def UnitState.pulsesOut (x : UnitState) : Nat := x.trace.countP fun g => g.level && decide (g.ticks ≠ 0)

/-- The steps of which no descriptor has been pushed yet: those remaining, but for one partly encoded. -/
def UnitState.stepsUnpushed (x : UnitState) : Nat :=
  x.stepsRemaining.toNat - (if x.pendingTicks = 0 then 0 else 1)

/-- The step pulses of unit u output, in the window, in the ring and still to be encoded, together (R137). -/
def State.pulseTotal (s : State) (u : Nat) : Option Nat :=
  match s.winContents u, s.ringContents u with
  | some w, some r =>
    some ((s.unit u).pulsesOut + pulsesIn w + pulsesIn r + (s.unit u).stepsUnpushed)
  | _, _ => none

/-- `n` turns of the worker, one after another, and no other agent's. -/
def State.workerTurns (s : State) : Nat → Host.Outcome State Fault Refusal
  | 0 => .next s
  | n + 1 =>
    match step (s.pushTurn .worker) with
    | .next t => t.workerTurns n
    | .fault f => .fault f
    | .refused r => .refused r

/-- The operations of the worker (R13, R153). -/
def isWorkers : Instr → Bool
  | .wkTake | .encFirst _ | .encCont _ | .encEnd _ | .wkNext | .wkArm => true
  | .setup _ _ | .move _ _ _ | .start _ _ | .stop _ => false
  | .txDesc _ | .txEnd _ | .hThr _ | .hEnd _ | .descEnd | .descStep _ _ | .descLow _ _ => false

/-- The continuation descriptors of a remainder of `p` ticks, at most `fuel` of them (R134). -/
def contWords : (fuel p : Nat) → List Desc
  | 0, _ => []
  | fuel + 1, p => if p = 0 then [] else lowWord p :: contWords fuel (contCarry p)

/-- The descriptors of a step interval of `t` ticks with pulse `p`, in the order they are pushed (R130). -/
def intervalWords (t p : Nat) : List Desc := stepWord t p :: contWords (firstCarry t p) (firstCarry t p)

/-- `j` is the lowest 1 bit of `m` (R9, `lowbit`). -/
def IsLowBit (m : Mask) (j : Nat) : Prop := m.getLsbD j = true ∧ ∀ k, k < j → m.getLsbD k = false

/-- `j` is the lowest 1 bit of `m` above `i` (R9, `nextbit`). -/
def IsNextBit (m : Mask) (i j : Nat) : Prop :=
  i < j ∧ m.getLsbD j = true ∧ ∀ k, i < k → k < j → m.getLsbD k = false

/-- `m` has no 1 bit above `i` (R9, `nextbit` is none). -/
def NoNextBit (m : Mask) (i : Nat) : Prop := ∀ k, i < k → m.getLsbD k = false

/-- `u` is the lowest unit that is not set up (R230, R231). -/
def IsLowestFree (s : State) (u : Nat) : Prop :=
  u < s.nstep ∧ (s.unit u).setup = false ∧ ∀ v, v < u → (s.unit v).setup = true

/-- A mask bit names a unit that does not exist (R212). -/
def NamesNoUnit (m : Mask) (nstep : Nat) : Prop := ∃ i, nstep ≤ i ∧ m.getLsbD i = true

/-- The Synchronization State of a state (R42 to R44) replaced by that of another. -/
def State.withSyncOf (s r : State) : State :=
  { s with activeMask := r.activeMask, activeCount := r.activeCount, waiterValid := r.waiterValid,
           waiterId := r.waiterId }

/-- The operation is a MOVE of unit u. -/
def IsMoveOf (i : Instr) (u : Nat) : Prop := ∃ v d n, i = .move v d n ∧ v.toNat = u

/-- The operation is a step of TX[u], by name or as the descriptor the selected transmitter fetched. -/
def IsTxOf (s : State) (i : Instr) (u : Nat) : Prop :=
  (∃ v, (i = .txDesc v ∨ i = .txEnd v) ∧ v.toNat = u) ∨
  (s.txSel.toNat = u ∧ (i = .descEnd ∨ (∃ a b, i = .descStep a b) ∨ ∃ a b, i = .descLow a b))

/-- The operation may halt channel u: a STOP that names it, or the service of its completion (R187). -/
def MayHalt (i : Instr) (u : Nat) : Prop :=
  (∃ m, i = .stop m ∧ m.getLsbD u = true) ∨ ∃ v, i = .hEnd v ∧ v.toNat = u

/-- The operation is an encoder step of unit u that can push a descriptor (R150). -/
def IsEncodeOf (i : Instr) (u : Nat) : Prop :=
  ∃ v : BitVec 8, (i = .encFirst v ∨ i = .encCont v ∨ i = .encEnd v) ∧ v.toNat = u

/-- The operation is the threshold service of channel u. -/
def IsThresholdOf (i : Instr) (u : Nat) : Prop := ∃ v, i = .hThr v ∧ v.toNat = u

/-- The operation is the worker's arm step at unit u (R160). -/
def IsArmOf (s : State) (i : Instr) (u : Nat) : Prop := i = .wkArm ∧ s.wkUnit = some u

/-- The step that answers an error or OK at once: the responses grow by this word and nothing else changes. -/
def State.answering (s : State) (w : RespWord) : State := { s with events := s.events ++ [.response w] }

end Sys2Proof.Machine
end

