-- ==== Sys2Proof/WellFormed.lean ====
section
/-! DEFINITION. Which operations are well formed: the operand ranges R102 gives the descriptor classes. -/

namespace Sys2Proof

/-- A DESC_STEP carries a pulse of at least one tick (R8: 1 ≤ P) and a low phase of at least one (R102: 1 ≤ L). -/
def wfStep (d0 d1 : Dur) : Bool := decide (d0 ≠ 0) && decide (d1 ≠ 0)

/-- A DESC_LOW splits evenly: `1 ≤ a`, and `b = a` or `b = a - 1` (R102, R134). -/
def wfLow (a b : Dur) : Bool :=
  decide (1 ≤ a.toNat) && (decide (b.toNat = a.toNat) || decide (b.toNat + 1 = a.toNat))

/-- Well-formedness. The operands of commands and internal steps fill their fields, so every value is encodable
(R106: a unit id at or above NSTEP is encodable too); only the descriptor classes bound theirs. -/
def Instr.wf : Instr → Bool
  | .descStep d0 d1 => wfStep d0 d1
  | .descLow a b => wfLow a b
  | .setup _ _ | .move _ _ _ | .start _ _ | .stop _ => true
  | .wkTake | .encFirst _ | .encCont _ | .encEnd _ | .wkNext | .wkArm => true
  | .txDesc _ | .txEnd _ | .hThr _ | .hEnd _ | .descEnd => true

end Sys2Proof
end

