-- ==== Sys2Proof/Certificates/Slice0/Obligations.lean ====
section
/-! DEFINITION. The statements for the provers, one definition each. -/

open Sys2Proof Sys2Proof.Machine

/-! ### Encodings -/

/-- Decoding the word of a well-formed operation gives it back, for every row of the table and every operand. -/
def Obligations.DecodeOfEncodeIsTheOperation : Prop :=
  ∀ i : Instr, i.wf = true → decode (encode i) = .ok i

/-- Every word of every format has at most one meaning, and its encoding is that word: no bit of a word that
decodes is dropped. -/
def Obligations.EncodeOfDecodeIsTheWord : Prop :=
  ∀ (w : InstrWord) (i : Instr), decode w = .ok i → encode i = w

/-- A command word decodes exactly when it matches a row of R107's table; otherwise it is reserved (R113). -/
def Obligations.CommandWordDecodesIffItMatchesARow : Prop :=
  ∀ w : CmdWord, (∃ i, decodeCommand w = .ok i) ↔
    (w &&& 0xFFFFFFFFFFFF0000#64 = 0x1000000000000000#64 ∨ w &&& 0xF700FFFF00000000#64 = 0x2000000000000000#64 ∨
     w &&& 0xFFFF000000000000#64 = 0x3000000000000000#64 ∨ w &&& 0xFFFF0000FFFFFFFF#64 = 0x4000000000000000#64)

/-- Words of the spec's tables V-C and V-F decode to the operations they stand for, and reserved ones are rejected. -/
def Obligations.SpecWordsDecodeToTheirOperations : Prop :=
  decodeTableWord 64 0x1000000000000504 = some (.setup 4 5) ∧
  decodeTableWord 64 0x28000000000000C8 = some (.move 0 true 200) ∧
  decodeTableWord 64 0x28FF0000FFFFFFFF = some (.move 255 true 0xFFFFFFFF) ∧
  decodeTableWord 64 0x300000030000000A = some (.start 3 0xA) ∧
  decodeTableWord 64 0x4000FFFF00000000 = some (.stop 0xFFFF) ∧
  decodeTableWord 64 0x1000000000010504 = none ∧ decodeTableWord 64 0x2800000100000005 = none ∧
  decodeTableWord 64 0x4000000100000001 = none ∧ decodeTableWord 64 0x5000000000000000 = none ∧
  decodeTableWord 8 0x5 = some .wkTake ∧ decodeTableWord 8 0xD = some (.hThr 0) ∧
  decodeTableWord 32 0x00000000 = some .descEnd ∧
  decodeTableWord 32 0x03DE800A = some (.descStep 10 990) ∧
  decodeTableWord 32 0x0E1B0E1C = some (.descLow 3612 3611) ∧ decodeTableWord 32 0x80070005 = none

/-! ### Steps -/

/-- A step runs the decoded operation: a command word on the host's turn with its side inputs presented, an operation
word on its agent's turn, the worker's or the handler's own choice on theirs, and on a transmitter's turn the class of the
word it fetches, or TX_DESC for a word of no class. With no choice, nothing to fetch, or no turn, the state stays. The step
also takes the turn off the agenda, ends the context-switch pulse (log 14) and, for a transmitter, records the channel
(log 5): the model's choices, as the turns themselves are (logs 2, 3). -/
def Obligations.StepRunsTheDecodedOperation : Prop :=
  ∀ (s : State) (rest : List Turn), s.paramsOk = true → s.refused = none →
    (∀ w side i, s.agenda = .host w side :: rest → decode (.command w) = .ok i →
      step s = exec i { s with ctxSwitchReq := false, agenda := rest, side := side }) ∧
    (∀ w i, s.agenda = .operation w :: rest → decode (.operation w) = .ok i →
      step s = exec i { s with ctxSwitchReq := false, agenda := rest }) ∧
    (s.agenda = .worker :: rest →
      (∀ i, s.workerChoice = some i → step s = exec i { s with ctxSwitchReq := false, agenda := rest }) ∧
      (s.workerChoice = none → step s = .next { s with ctxSwitchReq := false, agenda := rest })) ∧
    (s.agenda = .handler :: rest →
      (∀ i, s.handlerChoice = some i → step s = exec i { s with ctxSwitchReq := false, agenda := rest }) ∧
      (s.handlerChoice = none → step s = .next { s with ctxSwitchReq := false, agenda := rest })) ∧
    (∀ u, s.agenda = .tx u :: rest →
      (∀ w, s.txReady u.toNat = true → s.fetchWord u.toNat = some w →
        (∀ i, decode (.descriptor w) = .ok i →
          step s = exec i { s with ctxSwitchReq := false, agenda := rest, txSel := u }) ∧
        (∀ e, decode (.descriptor w) = .error e →
          step s = exec (.txDesc u) { s with ctxSwitchReq := false, agenda := rest, txSel := u })) ∧
      (s.txReady u.toNat = true → s.fetchWord u.toNat = none → step s = .fault .unwrittenWord) ∧
      (s.txReady u.toNat = false → step s = .next { s with ctxSwitchReq := false, agenda := rest, txSel := u })) ∧
    (s.agenda = [] → step s = .next { s with ctxSwitchReq := false })

/-- A reserved command word marks the run refused: no state change and no response (R113). The turn taken off the
agenda and the pulse ended are the model's choices (logs 2, 14), and the sticky mark is log 10. -/
def Obligations.ReservedCommandMarksTheRunRefused : Prop :=
  ∀ (s : State) (w : CmdWord) (side : SideInputs) (rest : List Turn), s.paramsOk = true → s.refused = none →
    s.agenda = .host w side :: rest →
    w &&& 0xFFFFFFFFFFFF0000#64 ≠ 0x1000000000000000#64 → w &&& 0xF700FFFF00000000#64 ≠ 0x2000000000000000#64 →
    w &&& 0xFFFF000000000000#64 ≠ 0x3000000000000000#64 → w &&& 0xFFFF0000FFFFFFFF#64 ≠ 0x4000000000000000#64 →
    step s = .next { s with ctxSwitchReq := false, agenda := rest, refused := some .reservedCommand }

/-- An operation word that names no internal step marks the run refused and changes nothing else. The word's layout is
log 4, the mark log 10, the turn and the pulse logs 2 and 14: the model's choices. -/
def Obligations.ReservedOperationWordMarksTheRunRefused : Prop :=
  ∀ (s : State) (w : OpWord) (e : DecodeError) (rest : List Turn), s.paramsOk = true → s.refused = none →
    s.agenda = .operation w :: rest → decode (.operation w) = .error e →
    step s = .next { s with ctxSwitchReq := false, agenda := rest, refused := some .reservedOperation }

/-- After a refusal nothing is claimed: every later step of the run is refused with its reason (log 10), and a parameter
set that breaks R8 or R305 is refused at once (U19). -/
def Obligations.RefusedRunAndBadParametersGoNoFurther : Prop :=
  ∀ s : State, (s.paramsOk = false → step s = .refused .badParameters) ∧
    (∀ r, s.paramsOk = true → s.refused = some r → step s = .refused r)

/-- The parameters and the number of units never change (R20, R54), a model-level fault mark is never cleared, and no
operation clears the refused mark (R51). -/
def Obligations.ParametersAndStickyMarksStay : Prop :=
  (∀ s t : State, step s = .next t →
    t.params = s.params ∧ t.nstep = s.nstep ∧
    (s.faults.encShort = true → t.faults.encShort = true) ∧
    (s.faults.tickOverflow = true → t.faults.tickOverflow = true) ∧
    (s.faults.badDescriptor = true → t.faults.badDescriptor = true)) ∧
  (∀ (s r : State) (i : Instr), exec i s = .next r → s.refused ≠ none → r.refused ≠ none)

/-! ### SETUP, MOVE -/

/-- SETUP (R230, R231): the errors in their order, with no state change but the response; else the lowest free unit is
claimed, configured, and answered. -/
def Obligations.SetupClaimsTheLowestFreeUnit : Prop :=
  ∀ (s : State) (sp dp : BitVec 8),
    (s.side.pinValid = false → exec (.setup sp dp) s = .next (s.answering 0x00000005#32)) ∧
    (s.side.pinValid = true → (∀ u, u < s.nstep → (s.unit u).setup = true) →
      exec (.setup sp dp) s = .next (s.answering 0x00000003#32)) ∧
    (∀ u, s.side.pinValid = true → IsLowestFree s u →
      (s.side.allocOk = false → exec (.setup sp dp) s = .next (s.answering 0x00000001#32)) ∧
      (∀ e, s.side.allocOk = true → s.side.pinlock = some e →
        exec (.setup sp dp) s = .next (s.answering (e ++ 0x0008#16))) ∧
      (∀ e, s.side.allocOk = true → s.side.pinlock = none → s.side.configure = some e →
        exec (.setup sp dp) s = .next (s.answering (e ++ 0x0008#16))) ∧
      (s.side.allocOk = true → s.side.pinlock = none → s.side.configure = none →
        exec (.setup sp dp) s = .next
          { s with
            units := s.units.set u
              { s.unit u with
                setup := true
                cfg :=
                  { stepPin := sp, dirPin := dp, stepsPerUnit := s.side.cfgSpu, invStepsPerUnit := s.side.cfgInv,
                    maxSpeed := s.side.cfgVmax, maxAccel := s.side.cfgAmax } }
            workerCreated := true
            events := s.events ++ [.response (0x0000#16 ++ BitVec.ofNat 8 u ++ 0x00#8)] }))

/-- MOVE (R235): InvalidUnit, then UnitNotSetup, with no state change but the response; else the train is loaded. The
handle's name and the count of `prepare` calls are the model's (log 9). -/
def Obligations.MoveLoadsATrain : Prop :=
  ∀ (s : State) (u : BitVec 8) (dir : Bool) (n : BitVec 32),
    (s.nstep ≤ u.toNat → exec (.move u dir n) s = .next (s.answering 0x00000002#32)) ∧
    (u.toNat < s.nstep → (s.unit u.toNat).setup = false →
      exec (.move u dir n) s = .next (s.answering 0x00000004#32)) ∧
    (u.toNat < s.nstep → (s.unit u.toNat).setup = true → s.fullyIdle u.toNat = true →
      exec (.move u dir n) s = .next
        { s with
          units := s.units.set u.toNat
            { s.unit u.toNat with
              direction := dir
              motion := some
                { train := s.prepares + 1, v0 := s.side.motV0, vTarget := s.side.motVt, accel := s.side.motA,
                  jerk := s.side.motJ, samples := s.side.samples }
              motionCalls := 0
              stepsRemaining := n
              head := 0
              tail := 0
              pendingTicks := 0
              hwOffset := 0
              endEmitted := false
              armed := false }
          prepares := s.prepares + 1
          events := s.events ++ [.response 0x00000000#32] })

/-- A MOVE of a unit that is active, transmitting, being served by the worker, or signalled is refused: the run is
marked and nothing else changes (R237). -/
def Obligations.MoveOfABusyUnitIsRefused : Prop :=
  ∀ (s : State) (u : BitVec 8) (dir : Bool) (n : BitVec 32), u.toNat < s.nstep → (s.unit u.toNat).setup = true →
    (s.activeMask.getLsbD u.toNat = true ∨ (s.unit u.toNat).txRun = true ∨
      (s.wkState ≠ .wait ∧ s.wkMask.getLsbD u.toNat = true) ∨ s.workerSig.getLsbD u.toNat = true) →
    exec (.move u dir n) s = .next { s with refused := some .busyMove }

/-! ### START, STOP -/

/-- START (R211, R212): a bit beyond the table is InvalidUnit; an empty mask is refused; a unit not set up is
UnitNotSetup; else the directions are driven, the mask, count and waiter recorded, and the mask posted. No response yet. -/
def Obligations.StartRecordsTheWaiterAndPosts : Prop :=
  ∀ (s : State) (m : Mask) (c : BitVec 32),
    (NamesNoUnit m s.nstep → exec (.start m c) s = .next (s.answering 0x00000002#32)) ∧
    (m = 0 → exec (.start m c) s = .next { s with refused := some .emptyStart }) ∧
    (m ≠ 0 → ¬ NamesNoUnit m s.nstep → s.waiterValid = false → s.activeCount = 0 →
      ((∃ u, m.getLsbD u = true ∧ (s.unit u).setup = false) →
        exec (.start m c) s = .next (s.answering 0x00000004#32)) ∧
      ((∀ u, m.getLsbD u = true → (s.unit u).setup = true) →
        ∃ t, exec (.start m c) s = .next t ∧
          (∀ u, u < s.nstep → t.unit u =
            { s.unit u with dirOut := if m.getLsbD u then (s.unit u).direction else (s.unit u).dirOut }) ∧
          t.nstep = s.nstep ∧
          t = { s with
                units := t.units
                activeMask := s.activeMask ||| m
                activeCount := popcount (s.activeMask ||| m)
                waiterValid := true
                waiterId := c
                workerSig := s.workerSig ||| m }))

/-- A START whose mask names existing units, while one is in flight, is refused: the run is marked and nothing else changes
(R300). A mask bit beyond the table is InvalidUnit (R212), and that a unit not set up does not come first is log 15: the
model's choice of order. -/
def Obligations.StartWhileOneIsInFlightIsRefused : Prop :=
  ∀ (s : State) (m : Mask) (c : BitVec 32), ¬ NamesNoUnit m s.nstep → s.waiterValid = true →
    ∃ r, exec (.start m c) s = .next { s with refused := some r }

/-- STOP (R214): every unit both named and active is halted and removed from the mask, and no other unit is touched;
the count follows; the waiter is woken exactly when the last active unit is removed (R215, R218); the command answers OK. -/
def Obligations.StopRetiresTheActiveUnitsOfItsMask : Prop :=
  ∀ (s : State) (m : Mask), SyncInv s → MaskIn s.activeMask s.nstep →
    ∃ t, exec (.stop m) s = .next t ∧
      t.activeMask = s.activeMask &&& ~~~ m ∧ t.activeCount = popcount (s.activeMask &&& ~~~ m) ∧
      t.nstep = s.nstep ∧
      (∀ u, u < s.nstep → t.unit u =
        if m.getLsbD u = true ∧ s.activeMask.getLsbD u = true then
          { s.unit u with
            txRun := false, txPos := 0, txAvail := 0, thrPending := false, endPending := false, stepOut := false }
        else s.unit u) ∧
      (s.activeMask ≠ 0 → s.activeMask &&& ~~~ m = 0 →
        t.waiterValid = false ∧ t.events = s.events ++ [.startDone s.waiterId 0x00000000#32, .response 0x00000000#32]) ∧
      ((s.activeMask = 0 ∨ s.activeMask &&& ~~~ m ≠ 0) →
        t.waiterValid = s.waiterValid ∧ t.events = s.events ++ [.response 0x00000000#32]) ∧
      t = { s with units := t.units, activeMask := t.activeMask, activeCount := t.activeCount,
                   waiterValid := t.waiterValid, events := t.events }

/-! ### The worker and the encoder -/

/-- WK_TAKE (R157). -/
def Obligations.WkTakeLatchesTheMailbox : Prop :=
  ∀ (s : State) (u : Nat), s.workerLive = true → s.wkState = .wait → IsLowBit s.workerSig u →
    exec .wkTake s = .next { s with wkMask := s.workerSig, workerSig := 0, wkUnit := some u, wkState := .fill }

/-- WK_NEXT (R159): from a unit that is not set up, full or drained, to the next signalled unit, or to ARMPASS at the
lowest signalled unit. -/
def Obligations.WkNextLeavesTheUnit : Prop :=
  ∀ (s : State) (u : Nat), s.workerLive = true → s.wkState = .fill → s.wkUnit = some u →
    ((s.unit u).setup = false ∨ s.full u = true ∨ s.drained u = true) →
    (∀ n, IsNextBit s.wkMask u n → exec .wkNext s = .next { s with wkUnit := some n }) ∧
    (∀ l, NoNextBit s.wkMask u → IsLowBit s.wkMask l →
      exec .wkNext s = .next { s with wkState := .armPass, wkUnit := some l })

/-- While the worker fills a set-up unit exactly one of WK_NEXT, ENC_CONT, ENC_FIRST, ENC_END is enabled, by R132's
tests in R132's order, and that is the worker's choice. -/
def Obligations.ExactlyOneFillStepIsEnabled : Prop :=
  ∀ (s : State) (u : Nat), s.workerLive = true → s.wkState = .fill → s.wkUnit = some u → u < 256 →
    (s.unit u).setup = true →
    (s.full u = true ∨ s.drained u = true →
      s.workerChoice = some .wkNext ∧ s.canNext u = true ∧ s.canEncCont u = false ∧ s.canEncFirst u = false ∧
        s.canEncEnd u = false) ∧
    (s.full u = false → (s.unit u).pendingTicks ≠ 0 →
      s.workerChoice = some (.encCont (BitVec.ofNat 8 u)) ∧ s.canNext u = false ∧ s.canEncCont u = true ∧
        s.canEncFirst u = false ∧ s.canEncEnd u = false) ∧
    (s.full u = false → (s.unit u).pendingTicks = 0 → (s.unit u).stepsRemaining ≠ 0 →
      s.workerChoice = some (.encFirst (BitVec.ofNat 8 u)) ∧ s.canNext u = false ∧ s.canEncCont u = false ∧
        s.canEncFirst u = true ∧ s.canEncEnd u = false) ∧
    (s.full u = false → (s.unit u).pendingTicks = 0 → (s.unit u).stepsRemaining = 0 → (s.unit u).endEmitted = false →
      s.workerChoice = some (.encEnd (BitVec.ofNat 8 u)) ∧ s.canNext u = false ∧ s.canEncCont u = false ∧
        s.canEncFirst u = false ∧ s.canEncEnd u = true)

/-- ENC_FIRST (R133, R136) on a sample of `t` ticks: an interval the contract covers is pushed as one DESC_STEP and its
excess left pending; one not longer than the pulse, or of 2^32 ticks or more, marks its model-level fault and pushes nothing. The
call of the oracle counts in each case. The form of the two marks, a next state in which only the call has counted, is log 11:
the model's choice. -/
def Obligations.EncFirstPushesTheFirstDescriptor : Prop :=
  ∀ (s : State) (u : BitVec 8), s.canEncFirst u.toNat = true →
    ((s.params.pulse < (s.unit u.toNat).nextSample ∧ (s.unit u.toNat).nextSample < 2 ^ 32) →
      exec (.encFirst u) s = .next
        { s with
          units := s.units.set u.toNat
            { s.unit u.toNat with
              motionCalls := (s.unit u.toNat).motionCalls + 1
              ring := Memory.writeWord (s.unit u.toNat).ring ((s.unit u.toNat).head % s.params.ringCap)
                (desc true (BitVec.ofNat 15 s.params.pulse) false
                  (BitVec.ofNat 15 (min ((s.unit u.toNat).nextSample - s.params.pulse) 32767)))
              head := ((s.unit u.toNat).head + 1) % s.params.ringCap
              pendingTicks := BitVec.ofNat 32 ((s.unit u.toNat).nextSample - s.params.pulse - 32767)
              stepsRemaining :=
                if (s.unit u.toNat).nextSample - s.params.pulse ≤ 32767 then (s.unit u.toNat).stepsRemaining - 1
                else (s.unit u.toNat).stepsRemaining } }) ∧
    ((s.unit u.toNat).nextSample ≤ s.params.pulse → (s.unit u.toNat).nextSample < 2 ^ 32 →
      exec (.encFirst u) s = .next
        { s with
          faults := { s.faults with encShort := true }
          units := s.units.set u.toNat
            { s.unit u.toNat with motionCalls := (s.unit u.toNat).motionCalls + 1 } }) ∧
    (2 ^ 32 ≤ (s.unit u.toNat).nextSample →
      exec (.encFirst u) s = .next
        { s with
          faults := { s.faults with tickOverflow := true }
          units := s.units.set u.toNat
            { s.unit u.toNat with motionCalls := (s.unit u.toNat).motionCalls + 1 } })

/-- ENC_CONT (R134) of a remainder of `p` ticks: split in two halves, the larger first, when `p < 65534`; else
32767/32767 and the rest stays pending. The step is counted when nothing is left. -/
def Obligations.EncContPushesAContinuation : Prop :=
  ∀ (s : State) (u : BitVec 8) (p : Nat), s.canEncCont u.toNat = true → p = (s.unit u.toNat).pendingTicks.toNat →
    (p < 65534 →
      exec (.encCont u) s = .next
        { s with
          units := s.units.set u.toNat
            { s.unit u.toNat with
              ring := Memory.writeWord (s.unit u.toNat).ring ((s.unit u.toNat).head % s.params.ringCap)
                (desc false (BitVec.ofNat 15 (p - p / 2)) false (BitVec.ofNat 15 (p / 2)))
              head := ((s.unit u.toNat).head + 1) % s.params.ringCap
              pendingTicks := 0
              stepsRemaining := (s.unit u.toNat).stepsRemaining - 1 } }) ∧
    (65534 ≤ p →
      exec (.encCont u) s = .next
        { s with
          units := s.units.set u.toNat
            { s.unit u.toNat with
              ring := Memory.writeWord (s.unit u.toNat).ring ((s.unit u.toNat).head % s.params.ringCap) 0x7FFF7FFF#32
              head := ((s.unit u.toNat).head + 1) % s.params.ringCap
              pendingTicks := BitVec.ofNat 32 (p - 65534)
              stepsRemaining :=
                if p = 65534 then (s.unit u.toNat).stepsRemaining - 1 else (s.unit u.toNat).stepsRemaining } })

/-- ENC_END (R135). -/
def Obligations.EncEndPushesTheMarker : Prop :=
  ∀ (s : State) (u : BitVec 8), s.canEncEnd u.toNat = true →
    exec (.encEnd u) s = .next
      { s with
        units := s.units.set u.toNat
          { s.unit u.toNat with
            ring := Memory.writeWord (s.unit u.toNat).ring ((s.unit u.toNat).head % s.params.ringCap) 0x00000000#32
            head := ((s.unit u.toNat).head + 1) % s.params.ringCap
            endEmitted := true } }

/-- The frame of the three encoder steps in memory (R150): for the address of the slot at `head`, every byte of RING[u]
outside its four reads as before, and so does every byte of WIN[u] and of every other unit; `head` moves one slot on exactly
when a descriptor was pushed, which then reads back from the slot, and otherwise RING[u] is as before. -/
def Obligations.EncoderStepStoresOnlyTheSlotAtHead : Prop :=
  ∀ (s t : State) (i : Instr) (u : BitVec 8),
    (i = .encFirst u ∨ i = .encCont u ∨ i = .encEnd u) → exec i s = .next t →
    ∀ a, a = 4 * ((s.unit u.toNat).head % s.params.ringCap) →
      (∀ b, b < a ∨ a + 4 ≤ b → Memory.read (t.unit u.toNat).ring b = Memory.read (s.unit u.toNat).ring b) ∧
      (∀ b, Memory.read (t.unit u.toNat).win b = Memory.read (s.unit u.toNat).win b) ∧
      (∀ v, v ≠ u.toNat → t.unit v = s.unit v) ∧
      (((t.unit u.toNat).head = (s.unit u.toNat).head ∧ (t.unit u.toNat).ring = (s.unit u.toNat).ring) ∨
        ((t.unit u.toNat).head = ((s.unit u.toNat).head + 1) % s.params.ringCap ∧
          ∃ w, Memory.readWord (t.unit u.toNat).ring ((s.unit u.toNat).head % s.params.ringCap) = some w))

/-- WK_ARM (R160, R161): a unit that is set up, not armed and has enough is armed with its oldest window; any other is
left alone; then the worker goes to the next signalled unit or back to WAIT. -/
def Obligations.WkArmArmsAReadyUnit : Prop :=
  ∀ (s : State) (u : Nat), s.paramsOk = true → s.workerLive = true → s.wkState = .armPass → s.wkUnit = some u →
    (∀ ws, (s.unit u).setup = true → (s.unit u).armed = false → s.enough u = true →
      s.ringOldest u (min (s.count u) s.params.winSize) = some ws →
      ∃ t, exec .wkArm s = .next t ∧
        ws.length = min (s.count u) s.params.winSize ∧
        Memory.readMany (t.unit u).win s.params.winSize 0 ws.length = some ws ∧
        (∀ b, 4 * ws.length ≤ b → Memory.read (t.unit u).win b = Memory.read (s.unit u).win b) ∧
        (∀ v, v ≠ u → t.unit v = s.unit v) ∧
        t.unit u =
          { s.unit u with
            win := (t.unit u).win
            tail := ((s.unit u).tail + ws.length) % s.params.ringCap
            hwOffset := ws.length % s.params.winSize
            armed := true
            txPos := 0
            txAvail := ws.length
            thrPending := false
            endPending := false
            txRun := true } ∧
        (∀ n, IsNextBit s.wkMask u n → t = { s with units := t.units, wkUnit := some n }) ∧
        (NoNextBit s.wkMask u → t = { s with units := t.units, wkUnit := none, wkState := .wait })) ∧
    (((s.unit u).setup = false ∨ (s.unit u).armed = true ∨ s.enough u = false) →
      (∀ n, IsNextBit s.wkMask u n → exec .wkArm s = .next { s with wkUnit := some n }) ∧
      (NoNextBit s.wkMask u → exec .wkArm s = .next { s with wkUnit := none, wkState := .wait }))

/-- Never re-armed (R161): WK_ARM changes nothing of an armed unit, and `armed` returns to 0 only by a MOVE of the unit. -/
def Obligations.ArmedUnitIsNeverRearmed : Prop :=
  ∀ (s t : State) (i : Instr) (u : Nat), (s.unit u).armed = true → exec i s = .next t →
    (i = .wkArm → t.unit u = s.unit u) ∧ ((t.unit u).armed = false → IsMoveOf i u)

/-! ### The transmitter -/

/-- TX_DESC (R181, R183): both phases go to the trace, the line rests at the level of the last phase that took time, the
fetch pointer advances, and at a half boundary the threshold event is latched. -/
def Obligations.TxDescOutputsOneDescriptor : Prop :=
  ∀ (s : State) (u : BitVec 8) (w : Desc), s.txReady u.toNat = true → s.fetchWord u.toNat = some w →
    (field w 0 15 ≠ 0 ∨ field w 16 15 ≠ 0) →
    exec (.txDesc u) s = .next
      { s with
        units := s.units.set u.toNat
          { s.unit u.toNat with
            trace := (s.unit u.toNat).trace ++
              [⟨w.getLsbD 15, field w 0 15⟩, ⟨w.getLsbD 31, field w 16 15⟩]
            stepOut := if field w 16 15 = 0 then w.getLsbD 15 else w.getLsbD 31
            txPos := ((s.unit u.toNat).txPos + 1) % s.params.winSize
            txAvail := (s.unit u.toNat).txAvail - 1
            thrPending := if ((s.unit u.toNat).txPos + 1) % s.params.winSize % s.params.half = 0 then true
              else (s.unit u.toNat).thrPending } }

/-- A fetched word with both durations 0 and a level bit set marks BAD_DESCRIPTOR and stops that transmitter (R188); a
reserved form with a duration is output like any other (R104): the case above asks for no class. -/
def Obligations.BadDescriptorIsMarked : Prop :=
  ∀ (s : State) (u : BitVec 8) (w : Desc), s.txReady u.toNat = true → s.fetchWord u.toNat = some w →
    w = 0x00008000#32 ∨ w = 0x80000000#32 ∨ w = 0x80008000#32 →
    exec (.txDesc u) s = .next
      { s with
        faults := { s.faults with badDescriptor := true }
        units := s.units.set u.toNat { s.unit u.toNat with txDead := true } }

/-- TX_END (R182). -/
def Obligations.TxEndStopsTheChannel : Prop :=
  ∀ (s : State) (u : BitVec 8), s.txReady u.toNat = true → s.fetchWord u.toNat = some 0x00000000#32 →
    exec (.txEnd u) s = .next
      { s with
        units := s.units.set u.toNat { s.unit u.toNat with txRun := false, stepOut := false, endPending := true } }

/-- The descriptor classes, fetched by the selected transmitter, do what TX_DESC and TX_END do with their words (R102,
R181, R182): the marker stops the channel, the two others are output. That they run as instructions is log 5. -/
def Obligations.DescriptorClassesAreTheTransmittersSteps : Prop :=
  ∀ s : State, s.txReady s.txSel.toNat = true →
    (exec .descEnd s = .next
      { s with
        units := s.units.set s.txSel.toNat
          { s.unit s.txSel.toNat with txRun := false, stepOut := false, endPending := true } }) ∧
    (∀ (l : Bool) (a b : Dur), (a ≠ 0 ∨ b ≠ 0) →
      exec (if l then .descStep a b else .descLow a b) s = .next
        { s with
          units := s.units.set s.txSel.toNat
            { s.unit s.txSel.toNat with
              trace := (s.unit s.txSel.toNat).trace ++ [⟨l, a⟩, ⟨false, b⟩]
              stepOut := if b = 0 then l else false
              txPos := ((s.unit s.txSel.toNat).txPos + 1) % s.params.winSize
              txAvail := (s.unit s.txSel.toNat).txAvail - 1
              thrPending := if ((s.unit s.txSel.toNat).txPos + 1) % s.params.winSize % s.params.half = 0 then true
                else (s.unit s.txSel.toNat).thrPending } }) ∧
    (∀ (i : Instr) (w : Desc), encode i = .descriptor w → s.fetchWord s.txSel.toNat = some w →
      exec i s = exec (if w = 0 then .txEnd s.txSel else .txDesc s.txSel) s)

/-- A stall is ended only by STOP (R184, R309): of an armed channel that has nothing left to fetch and no event pending,
every operation but a STOP that names it leaves the channel as it is. -/
def Obligations.OnlyStopEndsAStall : Prop :=
  ∀ (s t : State) (i : Instr) (u : Nat), s.stalled u → (s.unit u).thrPending = false → (s.unit u).endPending = false →
    (s.unit u).armed = true → exec i s = .next t →
    (t.stalled u ∧ (t.unit u).thrPending = false ∧ (t.unit u).endPending = false ∧ (t.unit u).armed = true ∧
      (t.unit u).stepOut = (s.unit u).stepOut ∧ (t.unit u).trace = (s.unit u).trace) ∨
    (∃ m, i = .stop m ∧ m.getLsbD u = true ∧ s.activeMask.getLsbD u = true)

/-- An operation whose enabling condition does not hold leaves the state as it is: the agent waits (log 3, the model's
reading of "no enabled step"). -/
def Obligations.DisabledOperationWaits : Prop :=
  ∀ (s : State) (u : BitVec 8),
    (s.canTake = false → exec .wkTake s = .next s) ∧
    (s.canEncFirst u.toNat = false → exec (.encFirst u) s = .next s) ∧
    (s.canEncCont u.toNat = false → exec (.encCont u) s = .next s) ∧
    (s.canEncEnd u.toNat = false → exec (.encEnd u) s = .next s) ∧
    ((∀ v, s.canNext v = false) → exec .wkNext s = .next s) ∧
    ((∀ v, s.canArmPass v = false) → exec .wkArm s = .next s) ∧
    (s.txReady u.toNat = false → exec (.txDesc u) s = .next s ∧ exec (.txEnd u) s = .next s) ∧
    (s.fetchWord u.toNat = some 0x00000000#32 → exec (.txDesc u) s = .next s) ∧
    (∀ w, s.fetchWord u.toNat = some w → w ≠ 0x00000000#32 → exec (.txEnd u) s = .next s) ∧
    ((s.unit u.toNat).thrPending = false → exec (.hThr u) s = .next s) ∧
    ((s.unit u.toNat).endPending = false → exec (.hEnd u) s = .next s)

/-! ### The handler -/

/-- H_THR (R196) of an armed unit, whose `tail` is the handler's (R52, R78, C2): up to half a window goes from the ring's tail to the free half, in order; the bytes of WIN[u] outside
the slots from `hw_offset` upward read as before; with at least one descriptor copied the worker is signalled. -/
def Obligations.HThrRefillsHalfAWindow : Prop :=
  ∀ (s : State) (u : BitVec 8) (ws : List Desc), s.paramsOk = true → (s.unit u.toNat).thrPending = true →
    (s.unit u.toNat).armed = true →
    s.ringOldest u.toNat (min s.params.half (s.count u.toNat)) = some ws →
    ∃ t, exec (.hThr u) s = .next t ∧
      ws.length = min s.params.half (s.count u.toNat) ∧
      Memory.readMany (t.unit u.toNat).win s.params.winSize (s.unit u.toNat).hwOffset ws.length = some ws ∧
      (∀ b, (∀ i, i < ws.length → ((s.unit u.toNat).hwOffset + i) % s.params.winSize ≠ b / 4) →
        Memory.read (t.unit u.toNat).win b = Memory.read (s.unit u.toNat).win b) ∧
      (∀ v, v ≠ u.toNat → t.unit v = s.unit v) ∧
      t.unit u.toNat =
        { s.unit u.toNat with
          win := (t.unit u.toNat).win
          tail := ((s.unit u.toNat).tail + ws.length) % s.params.ringCap
          hwOffset := ((s.unit u.toNat).hwOffset + ws.length) % s.params.winSize
          txAvail := (s.unit u.toNat).txAvail + ws.length
          thrPending := false } ∧
      t = { s with
            units := t.units
            workerSig := if s.count u.toNat = 0 then s.workerSig else s.workerSig ||| BitVec.twoPow 16 u.toNat }

/-- H_THR of a unit that is not armed clears its latch and changes nothing else: `tail` is not the handler's then (R52, R78,
C2). That the service is taken all the same and copies nothing is log 31: the model's choice. -/
def Obligations.HThrOfAnUnarmedUnitOnlyClearsItsLatch : Prop :=
  ∀ (s : State) (u : BitVec 8), (s.unit u.toNat).thrPending = true → (s.unit u.toNat).armed = false →
    exec (.hThr u) s = .next { s with units := s.units.set u.toNat { s.unit u.toNat with thrPending := false } }

/-- H_END (R197, R200): the channel is halted; an active unit is retired; the last one wakes the waiter and requests a
context switch, and no other does. -/
def Obligations.HEndRetiresTheUnit : Prop :=
  ∀ (s : State) (u : BitVec 8), SyncInv s → (s.unit u.toNat).endPending = true →
    ∃ x : UnitState,
      x = { s.unit u.toNat with
            txRun := false, txPos := 0, txAvail := 0, thrPending := false, endPending := false, stepOut := false } ∧
      (s.activeMask.getLsbD u.toNat = false →
        exec (.hEnd u) s = .next { s with units := s.units.set u.toNat x }) ∧
      (s.activeMask.getLsbD u.toNat = true → 1 < s.activeCount →
        exec (.hEnd u) s = .next
          { s with
            units := s.units.set u.toNat x
            activeMask := s.activeMask &&& ~~~ BitVec.twoPow 16 u.toNat
            activeCount := s.activeCount - 1 }) ∧
      (s.activeMask.getLsbD u.toNat = true → s.activeCount = 1 →
        exec (.hEnd u) s = .next
          { s with
            units := s.units.set u.toNat x
            activeMask := 0
            activeCount := 0
            waiterValid := false
            events := s.events ++ [.startDone s.waiterId 0x00000000#32]
            ctxSwitchReq := true })

/-- Both events of one channel (R198): served in either order, the pulse trace, the active mask and count, the waiter and
the responses are the same. -/
def Obligations.OrderOfTheTwoServicesIsNotObservable : Prop :=
  ∀ (s t1 t2 r : State) (u : BitVec 8), (s.unit u.toNat).thrPending = true → (s.unit u.toNat).endPending = true →
    exec (.hThr u) s = .next t1 → exec (.hEnd u) t1 = .next t2 → exec (.hEnd u) s = .next r →
    (∀ v, (t2.unit v).trace = (r.unit v).trace) ∧ t2.activeMask = r.activeMask ∧ t2.activeCount = r.activeCount ∧
    t2.waiterValid = r.waiterValid ∧ t2.events = r.events ∧ t2.ctxSwitchReq = r.ctxSwitchReq ∧
    (r.unit u.toNat).thrPending = false

/-- INT_ST (R115) holds the threshold latch of unit u at bit u and its completion latch at bit 16 + u, every other bit is
0, and `irq` is INT_ST ≠ 0. -/
def Obligations.InterruptStatusShowsTheLatches : Prop :=
  ∀ s : State, s.nstep ≤ 16 →
    (∀ u, u < s.nstep → s.intSt.getLsbD u = (s.unit u).thrPending ∧
      s.intSt.getLsbD (16 + u) = (s.unit u).endPending) ∧
    (∀ k, s.nstep ≤ k → k < 16 → s.intSt.getLsbD k = false ∧ s.intSt.getLsbD (16 + k) = false) ∧
    (s.irq = true ↔ s.intSt ≠ 0)

/-- The handler has a service exactly while `irq` = 1 (R49, R262), and takes the lowest channel with an event pending,
its threshold event first (R263). -/
def Obligations.HandlerServesTheFirstPendingEvent : Prop :=
  ∀ s : State, s.nstep ≤ 16 →
    (s.irq = false → s.handlerChoice = none) ∧
    (∀ u, u < s.nstep → (∀ v, v < u → (s.unit v).thrPending = false ∧ (s.unit v).endPending = false) →
      ((s.unit u).thrPending = true → s.handlerChoice = some (.hThr (BitVec.ofNat 8 u))) ∧
      ((s.unit u).thrPending = false → (s.unit u).endPending = true →
        s.handlerChoice = some (.hEnd (BitVec.ofNat 8 u))))

/-! ### The encoding of an interval -/

/-- R138: for every interval longer than the pulse the descriptors sum to it exactly, the first one's high phase is the
pulse, no later phase is high, no descriptor is the marker, and their number is R138's. -/
def Obligations.IntervalIsEncodedExactly : Prop :=
  ∀ t p : Nat, 1 ≤ p → p ≤ 32767 → p < t →
    ((intervalWords t p).map ticksOf).sum = t ∧
    (∀ w ∈ intervalWords t p, w ≠ 0 ∧ w.getLsbD 31 = false ∧ (dur0 w).toNat ≤ 32767 ∧ (dur1 w).toNat ≤ 32767) ∧
    (∃ rest, intervalWords t p = stepWord t p :: rest ∧
      (stepWord t p).getLsbD 15 = true ∧ (dur0 (stepWord t p)).toNat = p ∧
      ∀ w ∈ rest, w.getLsbD 15 = false) ∧
    (intervalWords t p).length =
      (if t - p ≤ 32767 then 1 else 1 + (t - p - 32767 + 65533) / 65534)

/-- R236: the step count of a MOVE is the whole part of |distance| times the unit's own steps per unit, in exact arithmetic,
its direction is 1 for a distance of at least 0, and no MOVE is issued for a count that does not fit 32 bits. -/
def Obligations.StepCountIsTheWholePartOfTheDistance : Prop :=
  ∀ (s : State) (u : BitVec 8) (d k : Ratio), k = (s.unit u.toNat).cfg.stepsPerUnit →
    0 < d.den → 0 < k.den → 0 < k.num →
    ∃ n : Nat, n * (d.den * k.den) ≤ d.num.natAbs * k.num.natAbs ∧
      d.num.natAbs * k.num.natAbs < (n + 1) * (d.den * k.den) ∧
      (n < 2 ^ 32 → s.moveCall u d = some (.move u (decide (0 ≤ d.num)) (BitVec.ofNat 32 n))) ∧
      (2 ^ 32 ≤ n → s.moveCall u d = none)

/-- R131: the tick count of a sample is the whole part of its seconds times 10^9 over the nanoseconds of a tick, in exact
arithmetic. -/
def Obligations.SampleTicksAreTheWholePartOfTheTime : Prop :=
  ∀ (s : State) (t n : Ratio), n = s.params.nanosPerTick → 0 ≤ t.num → 0 < t.den → n.isPos = true →
    s.sampleTicks t * (t.den * n.num.natAbs) ≤ t.num.natAbs * 1000000000 * n.den ∧
    t.num.natAbs * 1000000000 * n.den < (s.sampleTicks t + 1) * (t.den * n.num.natAbs)

/-! ### Reset and the invariants -/

/-- R292: after reset no unit is set up, the worker does not exist, no channel runs, `irq` is 0, the start cycle is Idle,
the outputs are 0, and no internal step is enabled: the block does nothing until the host issues a command. -/
def Obligations.ResetLeavesTheBlockIdle : Prop :=
  ∀ (p : Params) (n : Nat), (State.resetWith p n).nstep = n ∧
    (∀ u, ((State.resetWith p n).unit u).setup = false ∧ ((State.resetWith p n).unit u).txRun = false ∧
      ((State.resetWith p n).unit u).stepOut = false ∧ ((State.resetWith p n).unit u).dirOut = false) ∧
    (State.resetWith p n).workerCreated = false ∧ (State.resetWith p n).irq = false ∧
    (State.resetWith p n).syncPhase = .idle ∧ (State.resetWith p n).ctxSwitchReq = false ∧
    (State.resetWith p n).workerChoice = none ∧ (State.resetWith p n).handlerChoice = none ∧
    ∀ u, (State.resetWith p n).txReady u = false

/-- The invariants hold after reset, for every legal parameter set. -/
def Obligations.InvariantsHoldAtReset : Prop :=
  ∀ (p : Params) (n : Nat), p.ok n = true →
    SyncInv (State.resetWith p n) ∧ WorkerInv (State.resetWith p n) ∧ ChannelInv (State.resetWith p n) ∧
    MemoryInv (State.resetWith p n)

/-- R45: `active_count` is the population count of `active_mask`, and a waiter is recorded exactly while it is positive:
every step of every agent keeps it. -/
def Obligations.EveryStepKeepsTheSyncInvariant : Prop :=
  ∀ s t : State, SyncInv s → step s = .next t → SyncInv t

/-- Every step keeps the worker's registers in agreement with its position in the loop, and every mask within the
registry. -/
def Obligations.EveryStepKeepsTheWorkerInvariant : Prop :=
  ∀ s t : State, WorkerInv s → step s = .next t → WorkerInv t

/-- Every step keeps the ring and window discipline of every unit: pointers in range, the occupancy bound, and every
descriptor that may be read written before. -/
def Obligations.EveryStepKeepsTheChannelInvariant : Prop :=
  ∀ s t : State, ChannelInv s → step s = .next t → ChannelInv t

/-- Every step keeps every memory space in canonical form and within its descriptors. -/
def Obligations.EveryStepKeepsMemoryCanonical : Prop :=
  ∀ s t : State, MemoryInv s → step s = .next t → MemoryInv t

/-- R86 at every state of the invariant: the window never holds more than W valid descriptors, and when a threshold
service begins it holds at most HALF, so the copy fits. -/
def Obligations.ThresholdServiceFindsHalfTheWindowFree : Prop :=
  ∀ (s : State) (u : Nat), ChannelInv s → (s.unit u).txAvail ≤ s.params.winSize ∧
    ((s.unit u).thrPending = true → (s.unit u).txAvail ≤ s.params.half)

/-- No step reads a word that nothing has written (R78, R87): from a state of the invariant a step never faults. -/
def Obligations.NoStepReadsAnUnwrittenWord : Prop :=
  ∀ (s : State) (f : Fault), ChannelInv s → step s ≠ .fault f

/-! ### Rules over all operations -/

/-- R52: a register is written only by the operations listed for it, `tail` by H_THR only while the unit is armed and by
WK_ARM only while it is not. Besides R52's table, TX_END writes `step_out` (R182). That an H_THR of an unarmed unit is taken
without writing `tail` is log 31. -/
def Obligations.RegistersAreWrittenOnlyByTheirOwners : Prop :=
  ∀ (s t : State) (i : Instr) (u : Nat), exec i s = .next t →
    (((t.unit u).cfg ≠ (s.unit u).cfg ∨ (t.unit u).setup ≠ (s.unit u).setup ∨ t.workerCreated ≠ s.workerCreated) →
      ∃ a b, i = .setup a b) ∧
    ((s.unit u).setup = true → (t.unit u).setup = true ∧ (t.unit u).cfg = (s.unit u).cfg) ∧
    (((t.unit u).direction ≠ (s.unit u).direction ∨ (t.unit u).motion ≠ (s.unit u).motion) → IsMoveOf i u) ∧
    ((t.unit u).stepsRemaining ≠ (s.unit u).stepsRemaining →
      IsMoveOf i u ∨ ∃ v, (i = .encFirst v ∨ i = .encCont v) ∧ v.toNat = u) ∧
    ((t.unit u).pendingTicks ≠ (s.unit u).pendingTicks →
      IsMoveOf i u ∨ ∃ v, (i = .encFirst v ∨ i = .encCont v) ∧ v.toNat = u) ∧
    ((t.unit u).motionCalls ≠ (s.unit u).motionCalls → IsMoveOf i u ∨ ∃ v, i = .encFirst v ∧ v.toNat = u) ∧
    ((t.unit u).endEmitted ≠ (s.unit u).endEmitted → IsMoveOf i u ∨ ∃ v, i = .encEnd v ∧ v.toNat = u) ∧
    ((t.unit u).head ≠ (s.unit u).head → IsMoveOf i u ∨ IsEncodeOf i u) ∧
    ((t.unit u).ring ≠ (s.unit u).ring → IsEncodeOf i u) ∧
    ((t.unit u).tail ≠ (s.unit u).tail → IsMoveOf i u ∨ (IsThresholdOf i u ∧ (s.unit u).armed = true) ∨
      (IsArmOf s i u ∧ (s.unit u).armed = false)) ∧
    ((t.unit u).hwOffset ≠ (s.unit u).hwOffset → IsMoveOf i u ∨ IsThresholdOf i u ∨ IsArmOf s i u) ∧
    ((t.unit u).win ≠ (s.unit u).win → IsThresholdOf i u ∨ IsArmOf s i u) ∧
    ((t.unit u).armed ≠ (s.unit u).armed → IsMoveOf i u ∨ IsArmOf s i u) ∧
    (((t.unit u).txRun ≠ (s.unit u).txRun ∨ (t.unit u).txPos ≠ (s.unit u).txPos) →
      IsArmOf s i u ∨ IsTxOf s i u ∨ MayHalt i u) ∧
    ((t.unit u).txAvail ≠ (s.unit u).txAvail → IsArmOf s i u ∨ IsTxOf s i u ∨ IsThresholdOf i u ∨ MayHalt i u) ∧
    ((t.unit u).thrPending ≠ (s.unit u).thrPending →
      IsArmOf s i u ∨ IsTxOf s i u ∨ IsThresholdOf i u ∨ MayHalt i u) ∧
    ((t.unit u).endPending ≠ (s.unit u).endPending → IsArmOf s i u ∨ IsTxOf s i u ∨ MayHalt i u) ∧
    ((t.unit u).stepOut ≠ (s.unit u).stepOut → IsTxOf s i u ∨ MayHalt i u) ∧
    ((t.unit u).trace ≠ (s.unit u).trace → IsTxOf s i u) ∧
    ((t.unit u).dirOut ≠ (s.unit u).dirOut → ∃ m c, i = .start m c ∧ m.getLsbD u = true) ∧
    ((t.activeMask ≠ s.activeMask ∨ t.activeCount ≠ s.activeCount ∨ t.waiterValid ≠ s.waiterValid) →
      (∃ m c, i = .start m c) ∨ (∃ m, i = .stop m) ∨ ∃ v, i = .hEnd v) ∧
    (t.waiterId ≠ s.waiterId → ∃ m c, i = .start m c) ∧
    ((t.wkState ≠ s.wkState ∨ t.wkMask ≠ s.wkMask ∨ t.wkUnit ≠ s.wkUnit) →
      i = .wkTake ∨ i = .wkNext ∨ i = .wkArm) ∧
    (t.workerSig ≠ s.workerSig → (∃ m c, i = .start m c) ∨ (∃ v, i = .hThr v) ∨ i = .wkTake) ∧
    (t.ctxSwitchReq ≠ s.ctxSwitchReq → ∃ v, i = .hEnd v)

/-- R154: no step of the worker reads or writes the Synchronization State, and none produces a response. -/
def Obligations.WorkerNeverTouchesTheSyncState : Prop :=
  ∀ (s r : State) (i : Instr), isWorkers i = true →
    (∀ t, exec i s = .next t →
      exec i (s.withSyncOf r) = .next (t.withSyncOf r) ∧ t.withSyncOf s = t ∧ t.events = s.events) ∧
    (∀ f, exec i s = .fault f → exec i (s.withSyncOf r) = .fault f) ∧
    (∀ q, exec i s ≠ .refused q)

/-- R155: exactly two operations post to the worker: an accepted START its whole mask, and H_THR(u) bit u when it copied
at least one descriptor; besides them only WK_TAKE, which takes the mailbox, changes it. That an H_THR of an unarmed unit
copies nothing is log 31. -/
def Obligations.OnlyStartAndThresholdServicesSignal : Prop :=
  ∀ (s t : State) (i : Instr), exec i s = .next t →
    (t.workerSig ≠ s.workerSig →
      (∃ m c, i = .start m c ∧ t.workerSig = s.workerSig ||| m) ∨
      (∃ u : BitVec 8, i = .hThr u ∧ (s.unit u.toNat).armed = true ∧ s.count u.toNat ≠ 0 ∧
        t.workerSig = s.workerSig ||| BitVec.twoPow 16 u.toNat) ∨
      (i = .wkTake ∧ t.workerSig = 0)) ∧
    (∀ m c, i = .start m c → s.waiterValid = false → t.waiterValid = true → t.workerSig = s.workerSig ||| m) ∧
    (∀ u : BitVec 8, i = .hThr u → s.paramsOk = true → (s.unit u.toNat).thrPending = true →
      (s.unit u.toNat).armed = true → s.count u.toNat ≠ 0 →
      t.workerSig = s.workerSig ||| BitVec.twoPow 16 u.toNat)

/-- R216: a start-done event is produced only by a step that clears the last bit of `active_mask`, a STOP or an H_END, and
it names the waiter; and a bit of `active_mask` is cleared only by a STOP that names it or by H_END of that channel. -/
def Obligations.StartDoneOnlyWhenTheLastUnitIsDone : Prop :=
  ∀ (s t : State) (i : Instr), SyncInv s → exec i s = .next t →
    (∀ c w, Event.startDone c w ∈ t.events.drop s.events.length →
      ((∃ m, i = .stop m) ∨ ∃ u, i = .hEnd u) ∧ s.activeMask ≠ 0 ∧ t.activeMask = 0 ∧ c = s.waiterId ∧
      s.waiterValid = true ∧ t.waiterValid = false ∧ w = 0) ∧
    (∀ u, s.activeMask.getLsbD u = true → t.activeMask.getLsbD u = false →
      (∃ m, i = .stop m ∧ m.getLsbD u = true) ∨
      ∃ v : BitVec 8, i = .hEnd v ∧ v.toNat = u ∧ (s.unit u).endPending = true)

/-- R85: seen as a queue, the ring is first in, first out and never holds more than C - 1 descriptors: an encoder step
appends at most one, an arm or a threshold service takes from the front what it stores in the window in the same order, a
MOVE empties it, and nothing else touches it. -/
def Obligations.RingIsAFirstInFirstOutQueue : Prop :=
  ∀ (s t : State) (i : Instr) (u : Nat) (q : List Desc), ChannelInv s → u < s.nstep → exec i s = .next t →
    s.ringContents u = some q →
    q.length + 1 ≤ s.params.ringCap ∧
    ((t.ringContents u = some q ∧ (t.unit u).win = (s.unit u).win) ∨
     (IsEncodeOf i u ∧ ∃ w, t.ringContents u = some (q ++ [w])) ∨
     (IsThresholdOf i u ∧ ∃ k, t.ringContents u = some (q.drop k) ∧ k ≤ s.params.half ∧
        Memory.readMany (t.unit u).win s.params.winSize (s.unit u).hwOffset k = some (q.take k)) ∨
     (IsArmOf s i u ∧ ∃ k, t.ringContents u = some (q.drop k) ∧ k = min q.length s.params.winSize ∧
        Memory.readMany (t.unit u).win s.params.winSize 0 k = some (q.take k)) ∨
     (IsMoveOf i u ∧ t.ringContents u = some []))

/-- R137: no step pulse is lost or doubled: the pulses output, in the window, in the ring and still to be encoded, taken
together, are the same after every operation, but for a MOVE of the unit (which loads a new train), the operations that end its
train or cut one (its marker met, H_END, STOP), a threshold service of the unit when it is armed and no longer runs, and a
descriptor run on its channel that is not the word fetched there. -/
def Obligations.StepPulsesAreConserved : Prop :=
  ∀ (s t : State) (i : Instr) (u n : Nat), ChannelInv s → exec i s = .next t → s.pulseTotal u = some n →
    ¬ IsMoveOf i u → ¬ MayHalt i u → (∀ v, i = .txEnd v → v.toNat ≠ u) →
    (IsThresholdOf i u → (s.unit u).armed = true → (s.unit u).txRun = true) →
    (∀ w, encode i = .descriptor w → s.txSel.toNat = u → w ≠ 0 ∧ s.fetchWord u = some w) →
    t.pulseTotal u = some n

/-- R163: every service of the worker ends: after WK_TAKE the worker, taking turn after turn, is back in WAIT within
NSTEP × (C + 1) steps, unless a model-level fault has stopped it. -/
def Obligations.WorkerServiceEnds : Prop :=
  ∀ s : State, WorkerInv s → ChannelInv s → s.refused = none → s.canTake = true →
    ∃ n t, n ≤ s.nstep * (s.params.ringCap + 1) ∧ s.workerTurns (n + 1) = .next t ∧
      (t.wkState = .wait ∨ t.workerDead = true)
end

