-- ==== Sys2Proof/Laws/Memory.lean ====
section
/-! SUPPORT. Laws of the memory spaces: read after write, what a write leaves alone, the canonical form kept; for bytes, descriptors and runs of descriptors. -/

namespace Sys2Proof.Machine

/-! ### Bytes -/

theorem Memory.read_write_same (m : Memory) (k : Nat) (v : Byte) : Memory.read (Memory.write m k v) k = some v := by
  induction m with
  | nil => simp [Memory.write, Memory.read]
  | cons c m ih =>
    obtain ⟨a, b⟩ := c
    simp only [Memory.write]
    split
    · simp [Memory.read]
    · split
      · simp [Memory.read]
      · next h1 h2 =>
        have : a ≠ k := by omega
        simp [Memory.read, this, ih]

theorem Memory.read_write_ne (m : Memory) {k j : Nat} (v : Byte) (h : j ≠ k) :
    Memory.read (Memory.write m k v) j = Memory.read m j := by
  induction m with
  | nil => simp [Memory.write, Memory.read, Ne.symm h]
  | cons c m ih =>
    obtain ⟨a, b⟩ := c
    simp only [Memory.write]
    split
    · simp [Memory.read, Ne.symm h]
    · split
      · next h1 h2 => subst h2; simp [Memory.read, Ne.symm h]
      · simp only [Memory.read, ih]

/-- The addresses a write lists: those listed before and the one written. -/
theorem Memory.mem_write {m : Memory} {k : Nat} {v : Byte} {c : Host.Cell} (h : c ∈ Memory.write m k v) :
    c.1 = k ∨ c ∈ m := by
  induction m with
  | nil => simp [Memory.write] at h; simp [h]
  | cons d m ih =>
    obtain ⟨a, b⟩ := d
    simp only [Memory.write] at h
    split at h
    · simp only [List.mem_cons] at h ⊢
      rcases h with rfl | h
      · exact .inl rfl
      · exact .inr h
    · split at h
      · simp only [List.mem_cons] at h ⊢
        rcases h with rfl | h
        · exact .inl rfl
        · exact .inr (.inr h)
      · simp only [List.mem_cons] at h ⊢
        rcases h with rfl | h
        · exact .inr (.inl rfl)
        · exact (ih h).imp id .inr

theorem Memory.wf_write {m : Memory} (h : m.wf) (k : Nat) (v : Byte) : (Memory.write m k v).wf := by
  induction m with
  | nil => simp [Memory.write, Memory.wf]
  | cons d m ih =>
    obtain ⟨a, b⟩ := d
    simp only [Memory.wf, List.map_cons, List.pairwise_cons, List.mem_map] at h
    simp only [Memory.write]
    split
    · next hk =>
      simp only [Memory.wf, List.map_cons, List.pairwise_cons, List.mem_cons, List.mem_map]
      refine ⟨?_, h⟩
      rintro x (rfl | hx)
      · exact hk
      · exact Nat.lt_trans hk (h.1 x hx)
    · split
      · next h2 =>
        subst h2
        simpa only [Memory.wf, List.map_cons, List.pairwise_cons, List.mem_map] using h
      · next h1 h2 =>
        simp only [Memory.wf, List.map_cons, List.pairwise_cons, List.mem_map]
        refine ⟨?_, ih h.2⟩
        rintro x ⟨c, hc, rfl⟩
        rcases Memory.mem_write hc with h3 | h3
        · simp only [h3]; omega
        · exact h.1 _ ⟨c, h3, rfl⟩

theorem Memory.wf_nil : Memory.wf [] := List.Pairwise.nil

/-! ### Descriptors -/

/-- A byte of a written descriptor, or a byte the write leaves alone. -/
theorem Memory.read_writeWord_ne (m : Memory) {i k : Nat} (w : Desc) (h : k < 4 * i ∨ 4 * i + 4 ≤ k) :
    Memory.read (Memory.writeWord m i w) k = Memory.read m k := by
  unfold Memory.writeWord
  rw [Memory.read_write_ne _ _ (by omega), Memory.read_write_ne _ _ (by omega),
    Memory.read_write_ne _ _ (by omega), Memory.read_write_ne _ _ (by omega)]

theorem Memory.bytes_join (w : Desc) : field w 24 8 ++ field w 16 8 ++ field w 8 8 ++ field w 0 8 = w := by
  unfold field; grind

theorem Memory.readWord_writeWord_same (m : Memory) (i : Nat) (w : Desc) :
    Memory.readWord (Memory.writeWord m i w) i = some w := by
  have h3 : Memory.read (Memory.writeWord m i w) (4 * i + 3) = some (field w 24 8) :=
    Memory.read_write_same _ _ _
  have h2 : Memory.read (Memory.writeWord m i w) (4 * i + 2) = some (field w 16 8) := by
    unfold Memory.writeWord
    rw [Memory.read_write_ne _ _ (by omega), Memory.read_write_same]
  have h1 : Memory.read (Memory.writeWord m i w) (4 * i + 1) = some (field w 8 8) := by
    unfold Memory.writeWord
    rw [Memory.read_write_ne _ _ (by omega), Memory.read_write_ne _ _ (by omega), Memory.read_write_same]
  have h0 : Memory.read (Memory.writeWord m i w) (4 * i) = some (field w 0 8) := by
    unfold Memory.writeWord
    rw [Memory.read_write_ne _ _ (by omega), Memory.read_write_ne _ _ (by omega),
      Memory.read_write_ne _ _ (by omega), Memory.read_write_same]
  unfold Memory.readWord
  rw [h0, h1, h2, h3]
  exact congrArg some (Memory.bytes_join w)

theorem Memory.readWord_writeWord_ne (m : Memory) {i j : Nat} (w : Desc) (h : j ≠ i) :
    Memory.readWord (Memory.writeWord m i w) j = Memory.readWord m j := by
  unfold Memory.readWord
  rw [Memory.read_writeWord_ne _ _ (by omega), Memory.read_writeWord_ne _ _ (by omega),
    Memory.read_writeWord_ne _ _ (by omega), Memory.read_writeWord_ne _ _ (by omega)]

theorem SpaceIn.nil (cap : Nat) : SpaceIn [] cap := ⟨Memory.wf_nil, by simp⟩

theorem SpaceIn.write {m : Memory} {cap : Nat} (h : SpaceIn m cap) {k : Nat} (hk : k < 4 * cap) (v : Byte) :
    SpaceIn (Memory.write m k v) cap := by
  refine ⟨Memory.wf_write h.1 k v, fun c hc => ?_⟩
  rcases Memory.mem_write hc with h1 | h1
  · omega
  · exact h.2 c h1

theorem SpaceIn.writeWord {m : Memory} {cap i : Nat} (h : SpaceIn m cap) (hi : i < cap) (w : Desc) :
    SpaceIn (Memory.writeWord m i w) cap :=
  (((h.write (by omega) _).write (by omega) _).write (by omega) _).write (by omega) _

/-! ### Runs of descriptors -/

theorem Memory.readMany_length {m : Memory} {cap : Nat} : ∀ {k start : Nat} {ws : List Desc},
    Memory.readMany m cap start k = some ws → ws.length = k
  | 0, _, _, h => by simp [Memory.readMany] at h; simp [← h]
  | k + 1, start, ws, h => by
    simp only [Memory.readMany] at h
    split at h
    · next w ws' _ h2 =>
      simp only [Option.some.injEq] at h
      simp [← h, Memory.readMany_length h2]
    · cases h

/-- Reading a run answers exactly when every descriptor of it has been written. -/
theorem Memory.readMany_isSome {m : Memory} {cap : Nat} : ∀ {k start : Nat},
    (∀ i, i < k → (Memory.readWord m ((start + i) % cap)).isSome) → ∃ ws, Memory.readMany m cap start k = some ws
  | 0, _, _ => ⟨[], rfl⟩
  | k + 1, start, h => by
    obtain ⟨w, hw⟩ := Option.isSome_iff_exists.1 (h 0 (by omega))
    obtain ⟨ws, hws⟩ := Memory.readMany_isSome (m := m) (cap := cap) (k := k) (start := start + 1)
      (fun i hi => by have := h (i + 1) (by omega); rwa [show start + (i + 1) = start + 1 + i by omega] at this)
    exact ⟨w :: ws, by simp only [Memory.readMany]; rw [show start % cap = (start + 0) % cap by simp, hw, hws]⟩

/-- Each descriptor of a run. -/
theorem Memory.readMany_get {m : Memory} {cap : Nat} : ∀ {k start : Nat} {ws : List Desc},
    Memory.readMany m cap start k = some ws → ∀ i (h : i < ws.length),
      Memory.readWord m ((start + i) % cap) = some ws[i]
  | 0, _, _, h, i, hi => by simp [Memory.readMany] at h; subst h; simp at hi
  | k + 1, start, ws, h, i, hi => by
    simp only [Memory.readMany] at h
    split at h
    · next w ws' h1 h2 =>
      simp only [Option.some.injEq] at h
      subst h
      cases i with
      | zero => simpa using h1
      | succ i =>
        have := Memory.readMany_get h2 i (by simpa using hi)
        rw [show start + (i + 1) = start + 1 + i by omega]
        simpa using this
    · cases h

/-- A run is what its descriptors are. -/
theorem Memory.readMany_eq {m : Memory} {cap : Nat} : ∀ {start : Nat} {ws : List Desc},
    (∀ i (h : i < ws.length), Memory.readWord m ((start + i) % cap) = some ws[i]) →
      Memory.readMany m cap start ws.length = some ws
  | _, [], _ => rfl
  | start, w :: ws, h => by
    have h0 := h 0 (by simp)
    have hs := Memory.readMany_eq (m := m) (cap := cap) (start := start + 1) (ws := ws) (fun i hi => by
      have := h (i + 1) (by simpa using hi)
      rw [show start + (i + 1) = start + 1 + i by omega] at this
      simpa using this)
    simp only [List.length_cons, Memory.readMany]
    simp only [Nat.add_zero, List.getElem_cons_zero] at h0
    rw [h0, hs]

/-- A run read from another memory is the same where the two agree on its descriptors. -/
theorem Memory.readMany_congr {m m' : Memory} {cap : Nat} : ∀ {k start : Nat},
    (∀ i, i < k → Memory.readWord m' ((start + i) % cap) = Memory.readWord m ((start + i) % cap)) →
      Memory.readMany m' cap start k = Memory.readMany m cap start k
  | 0, _, _ => rfl
  | k + 1, start, h => by
    have h0 := h 0 (by omega)
    have hs := Memory.readMany_congr (m := m) (m' := m') (cap := cap) (k := k) (start := start + 1) (fun i hi => by
      have := h (i + 1) (by omega)
      rwa [show start + (i + 1) = start + 1 + i by omega] at this)
    simp only [Memory.readMany]
    simp only [Nat.add_zero] at h0
    rw [h0, hs]

/-- The start of a run counts modulo the size of the space. -/
theorem Memory.readMany_mod (m : Memory) (cap start k : Nat) :
    Memory.readMany m cap (start % cap) k = Memory.readMany m cap start k := by
  induction k generalizing start with
  | zero => rfl
  | succ k ih =>
    simp only [Memory.readMany, Nat.mod_mod]
    rw [← ih (start % cap + 1), ← ih (start + 1), Nat.mod_add_mod]

/-- A run splits into a shorter run and the rest. -/
theorem Memory.readMany_add {m : Memory} {cap : Nat} : ∀ {j k start : Nat} {ws : List Desc},
    Memory.readMany m cap start (j + k) = some ws →
      Memory.readMany m cap start j = some (ws.take j) ∧ Memory.readMany m cap (start + j) k = some (ws.drop j)
  | 0, k, start, ws, h => by
    rw [Nat.zero_add] at h
    exact ⟨by simp [Memory.readMany], by simpa using h⟩
  | j + 1, k, start, ws, h => by
    rw [show j + 1 + k = j + k + 1 by omega] at h
    simp only [Memory.readMany] at h
    split at h
    · next w ws' h1 h2 =>
      simp only [Option.some.injEq] at h
      subst h
      obtain ⟨ha, hb⟩ := Memory.readMany_add h2
      refine ⟨by simp only [Memory.readMany, h1, ha, List.take_succ_cons], ?_⟩
      rw [show start + (j + 1) = start + 1 + j by omega]
      simpa using hb
    · cases h

theorem Memory.readWord_writeMany_ne {cap : Nat} : ∀ {ws : List Desc} {m : Memory} {start j : Nat},
    (∀ i, i < ws.length → (start + i) % cap ≠ j) →
      Memory.readWord (Memory.writeMany m cap start ws) j = Memory.readWord m j
  | [], _, _, _, _ => rfl
  | w :: ws, m, start, j, h => by
    have h0 := h 0 (by simp)
    simp only [Memory.writeMany]
    rw [Memory.readWord_writeMany_ne (ws := ws) (fun i hi => by
      have := h (i + 1) (by simpa using hi)
      rwa [show start + (i + 1) = start + 1 + i by omega] at this)]
    exact Memory.readWord_writeWord_ne _ _ (by simpa using Ne.symm h0)

/-- A run of at most `cap` descriptors meets no slot twice. -/
theorem mod_add_inj {cap start i j : Nat} (hi : i < cap) (hj : j < cap) (h : (start + i) % cap = (start + j) % cap) :
    i = j := by
  have h1 : (start + i) ≡ (start + j) [MOD cap] := h
  have h2 : i ≡ j [MOD cap] := Nat.ModEq.add_left_cancel' start h1
  have h3 : i % cap = j % cap := h2
  rwa [Nat.mod_eq_of_lt hi, Nat.mod_eq_of_lt hj] at h3

/-- Each descriptor of a written run reads back, as long as the run fits the space. -/
theorem Memory.readWord_writeMany {cap : Nat} : ∀ {ws : List Desc} {m : Memory} {start : Nat},
    ws.length ≤ cap → ∀ i (h : i < ws.length),
      Memory.readWord (Memory.writeMany m cap start ws) ((start + i) % cap) = some ws[i]
  | [], _, _, _, i, h => by simp at h
  | w :: ws, m, start, hl, i, h => by
    simp only [Memory.writeMany]
    simp only [List.length_cons] at hl h
    cases i with
    | zero =>
      rw [Memory.readWord_writeMany_ne (fun k hk heq => ?_)]
      · simpa using Memory.readWord_writeWord_same _ _ _
      · have := mod_add_inj (cap := cap) (start := start) (i := k + 1) (j := 0) (by omega) (by omega)
          (by rw [← heq]; congr 1; omega)
        omega
    | succ i =>
      rw [show start + (i + 1) = start + 1 + i by omega]
      rw [Memory.readWord_writeMany (by omega) i (by omega)]
      simp

/-- A written run reads back whole. -/
theorem Memory.readMany_writeMany {cap : Nat} {ws : List Desc} (m : Memory) (start : Nat) (h : ws.length ≤ cap) :
    Memory.readMany (Memory.writeMany m cap start ws) cap start ws.length = some ws :=
  Memory.readMany_eq (Memory.readWord_writeMany h)

/-- A byte outside the written slots reads as before. -/
theorem Memory.read_writeMany_ne {cap : Nat} : ∀ {ws : List Desc} {m : Memory} {start k : Nat},
    (∀ i, i < ws.length → (start + i) % cap ≠ k / 4) →
      Memory.read (Memory.writeMany m cap start ws) k = Memory.read m k
  | [], _, _, _, _ => rfl
  | w :: ws, m, start, k, h => by
    have h0 := h 0 (by simp)
    simp only [Memory.writeMany]
    rw [Memory.read_writeMany_ne (ws := ws) (fun i hi => by
      have := h (i + 1) (by simpa using hi)
      rwa [show start + (i + 1) = start + 1 + i by omega] at this)]
    exact Memory.read_writeWord_ne _ _ (by simp only [Nat.add_zero] at h0; omega)

theorem SpaceIn.writeMany {cap : Nat} (hc : 0 < cap) : ∀ {ws : List Desc} {m : Memory} {start : Nat},
    SpaceIn m cap → SpaceIn (Memory.writeMany m cap start ws) cap
  | [], _, _, h => h
  | _ :: _, _, _, h => by
    simp only [Memory.writeMany]
    exact SpaceIn.writeMany hc (h.writeWord (Nat.mod_lt _ hc) _)

end Sys2Proof.Machine
end

