-- ==== Sys2Proof/Laws/State.lean ====
section
/-! SUPPORT. What each named update of the state leaves in each field, and what it leaves in each unit of the registry. -/

namespace Sys2Proof.Machine

/-! ### The fields of the state after each named update -/

@[simp] theorem State.setUnit_params (s : State) (u : Nat) (x : UnitState) : (s.setUnit u x).params = s.params := rfl
@[simp] theorem State.setUnit_units (s : State) (u : Nat) (x : UnitState) : (s.setUnit u x).units = s.units.set u x := rfl
@[simp] theorem State.setUnit_activeMask (s : State) (u : Nat) (x : UnitState) : (s.setUnit u x).activeMask = s.activeMask := rfl
@[simp] theorem State.setUnit_activeCount (s : State) (u : Nat) (x : UnitState) : (s.setUnit u x).activeCount = s.activeCount := rfl
@[simp] theorem State.setUnit_waiterValid (s : State) (u : Nat) (x : UnitState) : (s.setUnit u x).waiterValid = s.waiterValid := rfl
@[simp] theorem State.setUnit_waiterId (s : State) (u : Nat) (x : UnitState) : (s.setUnit u x).waiterId = s.waiterId := rfl
@[simp] theorem State.setUnit_workerCreated (s : State) (u : Nat) (x : UnitState) : (s.setUnit u x).workerCreated = s.workerCreated := rfl
@[simp] theorem State.setUnit_workerSig (s : State) (u : Nat) (x : UnitState) : (s.setUnit u x).workerSig = s.workerSig := rfl
@[simp] theorem State.setUnit_wkState (s : State) (u : Nat) (x : UnitState) : (s.setUnit u x).wkState = s.wkState := rfl
@[simp] theorem State.setUnit_wkMask (s : State) (u : Nat) (x : UnitState) : (s.setUnit u x).wkMask = s.wkMask := rfl
@[simp] theorem State.setUnit_wkUnit (s : State) (u : Nat) (x : UnitState) : (s.setUnit u x).wkUnit = s.wkUnit := rfl
@[simp] theorem State.setUnit_ctxSwitchReq (s : State) (u : Nat) (x : UnitState) : (s.setUnit u x).ctxSwitchReq = s.ctxSwitchReq := rfl
@[simp] theorem State.setUnit_faults (s : State) (u : Nat) (x : UnitState) : (s.setUnit u x).faults = s.faults := rfl
@[simp] theorem State.setUnit_refused (s : State) (u : Nat) (x : UnitState) : (s.setUnit u x).refused = s.refused := rfl
@[simp] theorem State.setUnit_events (s : State) (u : Nat) (x : UnitState) : (s.setUnit u x).events = s.events := rfl
@[simp] theorem State.setUnit_agenda (s : State) (u : Nat) (x : UnitState) : (s.setUnit u x).agenda = s.agenda := rfl
@[simp] theorem State.setUnit_side (s : State) (u : Nat) (x : UnitState) : (s.setUnit u x).side = s.side := rfl
@[simp] theorem State.setUnit_prepares (s : State) (u : Nat) (x : UnitState) : (s.setUnit u x).prepares = s.prepares := rfl
@[simp] theorem State.setUnit_txSel (s : State) (u : Nat) (x : UnitState) : (s.setUnit u x).txSel = s.txSel := rfl

@[simp] theorem State.modUnit_params (s : State) (u : Nat) (f : UnitState → UnitState) : (s.modUnit u f).params = s.params := rfl
@[simp] theorem State.modUnit_units (s : State) (u : Nat) (f : UnitState → UnitState) : (s.modUnit u f).units = s.units.set u (f (s.unit u)) := rfl
@[simp] theorem State.modUnit_activeMask (s : State) (u : Nat) (f : UnitState → UnitState) : (s.modUnit u f).activeMask = s.activeMask := rfl
@[simp] theorem State.modUnit_activeCount (s : State) (u : Nat) (f : UnitState → UnitState) : (s.modUnit u f).activeCount = s.activeCount := rfl
@[simp] theorem State.modUnit_waiterValid (s : State) (u : Nat) (f : UnitState → UnitState) : (s.modUnit u f).waiterValid = s.waiterValid := rfl
@[simp] theorem State.modUnit_waiterId (s : State) (u : Nat) (f : UnitState → UnitState) : (s.modUnit u f).waiterId = s.waiterId := rfl
@[simp] theorem State.modUnit_workerCreated (s : State) (u : Nat) (f : UnitState → UnitState) : (s.modUnit u f).workerCreated = s.workerCreated := rfl
@[simp] theorem State.modUnit_workerSig (s : State) (u : Nat) (f : UnitState → UnitState) : (s.modUnit u f).workerSig = s.workerSig := rfl
@[simp] theorem State.modUnit_wkState (s : State) (u : Nat) (f : UnitState → UnitState) : (s.modUnit u f).wkState = s.wkState := rfl
@[simp] theorem State.modUnit_wkMask (s : State) (u : Nat) (f : UnitState → UnitState) : (s.modUnit u f).wkMask = s.wkMask := rfl
@[simp] theorem State.modUnit_wkUnit (s : State) (u : Nat) (f : UnitState → UnitState) : (s.modUnit u f).wkUnit = s.wkUnit := rfl
@[simp] theorem State.modUnit_ctxSwitchReq (s : State) (u : Nat) (f : UnitState → UnitState) : (s.modUnit u f).ctxSwitchReq = s.ctxSwitchReq := rfl
@[simp] theorem State.modUnit_faults (s : State) (u : Nat) (f : UnitState → UnitState) : (s.modUnit u f).faults = s.faults := rfl
@[simp] theorem State.modUnit_refused (s : State) (u : Nat) (f : UnitState → UnitState) : (s.modUnit u f).refused = s.refused := rfl
@[simp] theorem State.modUnit_events (s : State) (u : Nat) (f : UnitState → UnitState) : (s.modUnit u f).events = s.events := rfl
@[simp] theorem State.modUnit_agenda (s : State) (u : Nat) (f : UnitState → UnitState) : (s.modUnit u f).agenda = s.agenda := rfl
@[simp] theorem State.modUnit_side (s : State) (u : Nat) (f : UnitState → UnitState) : (s.modUnit u f).side = s.side := rfl
@[simp] theorem State.modUnit_prepares (s : State) (u : Nat) (f : UnitState → UnitState) : (s.modUnit u f).prepares = s.prepares := rfl
@[simp] theorem State.modUnit_txSel (s : State) (u : Nat) (f : UnitState → UnitState) : (s.modUnit u f).txSel = s.txSel := rfl

@[simp] theorem State.clearThreshold_params (s : State) (u : Nat) : (s.clearThreshold u).params = s.params := rfl
@[simp] theorem State.clearThreshold_units (s : State) (u : Nat) : (s.clearThreshold u).units = s.units.set u { s.unit u with thrPending := false } := rfl
@[simp] theorem State.clearThreshold_activeMask (s : State) (u : Nat) : (s.clearThreshold u).activeMask = s.activeMask := rfl
@[simp] theorem State.clearThreshold_activeCount (s : State) (u : Nat) : (s.clearThreshold u).activeCount = s.activeCount := rfl
@[simp] theorem State.clearThreshold_waiterValid (s : State) (u : Nat) : (s.clearThreshold u).waiterValid = s.waiterValid := rfl
@[simp] theorem State.clearThreshold_waiterId (s : State) (u : Nat) : (s.clearThreshold u).waiterId = s.waiterId := rfl
@[simp] theorem State.clearThreshold_workerCreated (s : State) (u : Nat) : (s.clearThreshold u).workerCreated = s.workerCreated := rfl
@[simp] theorem State.clearThreshold_workerSig (s : State) (u : Nat) : (s.clearThreshold u).workerSig = s.workerSig := rfl
@[simp] theorem State.clearThreshold_wkState (s : State) (u : Nat) : (s.clearThreshold u).wkState = s.wkState := rfl
@[simp] theorem State.clearThreshold_wkMask (s : State) (u : Nat) : (s.clearThreshold u).wkMask = s.wkMask := rfl
@[simp] theorem State.clearThreshold_wkUnit (s : State) (u : Nat) : (s.clearThreshold u).wkUnit = s.wkUnit := rfl
@[simp] theorem State.clearThreshold_ctxSwitchReq (s : State) (u : Nat) : (s.clearThreshold u).ctxSwitchReq = s.ctxSwitchReq := rfl
@[simp] theorem State.clearThreshold_faults (s : State) (u : Nat) : (s.clearThreshold u).faults = s.faults := rfl
@[simp] theorem State.clearThreshold_refused (s : State) (u : Nat) : (s.clearThreshold u).refused = s.refused := rfl
@[simp] theorem State.clearThreshold_events (s : State) (u : Nat) : (s.clearThreshold u).events = s.events := rfl
@[simp] theorem State.clearThreshold_agenda (s : State) (u : Nat) : (s.clearThreshold u).agenda = s.agenda := rfl
@[simp] theorem State.clearThreshold_side (s : State) (u : Nat) : (s.clearThreshold u).side = s.side := rfl
@[simp] theorem State.clearThreshold_prepares (s : State) (u : Nat) : (s.clearThreshold u).prepares = s.prepares := rfl
@[simp] theorem State.clearThreshold_txSel (s : State) (u : Nat) : (s.clearThreshold u).txSel = s.txSel := rfl

@[simp] theorem State.log_params (s : State) (e : Event) : (s.log e).params = s.params := rfl
@[simp] theorem State.log_units (s : State) (e : Event) : (s.log e).units = s.units := rfl
@[simp] theorem State.log_activeMask (s : State) (e : Event) : (s.log e).activeMask = s.activeMask := rfl
@[simp] theorem State.log_activeCount (s : State) (e : Event) : (s.log e).activeCount = s.activeCount := rfl
@[simp] theorem State.log_waiterValid (s : State) (e : Event) : (s.log e).waiterValid = s.waiterValid := rfl
@[simp] theorem State.log_waiterId (s : State) (e : Event) : (s.log e).waiterId = s.waiterId := rfl
@[simp] theorem State.log_workerCreated (s : State) (e : Event) : (s.log e).workerCreated = s.workerCreated := rfl
@[simp] theorem State.log_workerSig (s : State) (e : Event) : (s.log e).workerSig = s.workerSig := rfl
@[simp] theorem State.log_wkState (s : State) (e : Event) : (s.log e).wkState = s.wkState := rfl
@[simp] theorem State.log_wkMask (s : State) (e : Event) : (s.log e).wkMask = s.wkMask := rfl
@[simp] theorem State.log_wkUnit (s : State) (e : Event) : (s.log e).wkUnit = s.wkUnit := rfl
@[simp] theorem State.log_ctxSwitchReq (s : State) (e : Event) : (s.log e).ctxSwitchReq = s.ctxSwitchReq := rfl
@[simp] theorem State.log_faults (s : State) (e : Event) : (s.log e).faults = s.faults := rfl
@[simp] theorem State.log_refused (s : State) (e : Event) : (s.log e).refused = s.refused := rfl
@[simp] theorem State.log_events (s : State) (e : Event) : (s.log e).events = s.events ++ [e] := rfl
@[simp] theorem State.log_agenda (s : State) (e : Event) : (s.log e).agenda = s.agenda := rfl
@[simp] theorem State.log_side (s : State) (e : Event) : (s.log e).side = s.side := rfl
@[simp] theorem State.log_prepares (s : State) (e : Event) : (s.log e).prepares = s.prepares := rfl
@[simp] theorem State.log_txSel (s : State) (e : Event) : (s.log e).txSel = s.txSel := rfl

@[simp] theorem State.post_params (s : State) (m : Mask) : (s.post m).params = s.params := rfl
@[simp] theorem State.post_units (s : State) (m : Mask) : (s.post m).units = s.units := rfl
@[simp] theorem State.post_activeMask (s : State) (m : Mask) : (s.post m).activeMask = s.activeMask := rfl
@[simp] theorem State.post_activeCount (s : State) (m : Mask) : (s.post m).activeCount = s.activeCount := rfl
@[simp] theorem State.post_waiterValid (s : State) (m : Mask) : (s.post m).waiterValid = s.waiterValid := rfl
@[simp] theorem State.post_waiterId (s : State) (m : Mask) : (s.post m).waiterId = s.waiterId := rfl
@[simp] theorem State.post_workerCreated (s : State) (m : Mask) : (s.post m).workerCreated = s.workerCreated := rfl
@[simp] theorem State.post_workerSig (s : State) (m : Mask) : (s.post m).workerSig = s.workerSig ||| m := rfl
@[simp] theorem State.post_wkState (s : State) (m : Mask) : (s.post m).wkState = s.wkState := rfl
@[simp] theorem State.post_wkMask (s : State) (m : Mask) : (s.post m).wkMask = s.wkMask := rfl
@[simp] theorem State.post_wkUnit (s : State) (m : Mask) : (s.post m).wkUnit = s.wkUnit := rfl
@[simp] theorem State.post_ctxSwitchReq (s : State) (m : Mask) : (s.post m).ctxSwitchReq = s.ctxSwitchReq := rfl
@[simp] theorem State.post_faults (s : State) (m : Mask) : (s.post m).faults = s.faults := rfl
@[simp] theorem State.post_refused (s : State) (m : Mask) : (s.post m).refused = s.refused := rfl
@[simp] theorem State.post_events (s : State) (m : Mask) : (s.post m).events = s.events := rfl
@[simp] theorem State.post_agenda (s : State) (m : Mask) : (s.post m).agenda = s.agenda := rfl
@[simp] theorem State.post_side (s : State) (m : Mask) : (s.post m).side = s.side := rfl
@[simp] theorem State.post_prepares (s : State) (m : Mask) : (s.post m).prepares = s.prepares := rfl
@[simp] theorem State.post_txSel (s : State) (m : Mask) : (s.post m).txSel = s.txSel := rfl

@[simp] theorem State.refuse_params (s : State) (r : Refusal) : (s.refuse r).params = s.params := rfl
@[simp] theorem State.refuse_units (s : State) (r : Refusal) : (s.refuse r).units = s.units := rfl
@[simp] theorem State.refuse_activeMask (s : State) (r : Refusal) : (s.refuse r).activeMask = s.activeMask := rfl
@[simp] theorem State.refuse_activeCount (s : State) (r : Refusal) : (s.refuse r).activeCount = s.activeCount := rfl
@[simp] theorem State.refuse_waiterValid (s : State) (r : Refusal) : (s.refuse r).waiterValid = s.waiterValid := rfl
@[simp] theorem State.refuse_waiterId (s : State) (r : Refusal) : (s.refuse r).waiterId = s.waiterId := rfl
@[simp] theorem State.refuse_workerCreated (s : State) (r : Refusal) : (s.refuse r).workerCreated = s.workerCreated := rfl
@[simp] theorem State.refuse_workerSig (s : State) (r : Refusal) : (s.refuse r).workerSig = s.workerSig := rfl
@[simp] theorem State.refuse_wkState (s : State) (r : Refusal) : (s.refuse r).wkState = s.wkState := rfl
@[simp] theorem State.refuse_wkMask (s : State) (r : Refusal) : (s.refuse r).wkMask = s.wkMask := rfl
@[simp] theorem State.refuse_wkUnit (s : State) (r : Refusal) : (s.refuse r).wkUnit = s.wkUnit := rfl
@[simp] theorem State.refuse_ctxSwitchReq (s : State) (r : Refusal) : (s.refuse r).ctxSwitchReq = s.ctxSwitchReq := rfl
@[simp] theorem State.refuse_faults (s : State) (r : Refusal) : (s.refuse r).faults = s.faults := rfl
@[simp] theorem State.refuse_refused (s : State) (r : Refusal) : (s.refuse r).refused = some r := rfl
@[simp] theorem State.refuse_events (s : State) (r : Refusal) : (s.refuse r).events = s.events := rfl
@[simp] theorem State.refuse_agenda (s : State) (r : Refusal) : (s.refuse r).agenda = s.agenda := rfl
@[simp] theorem State.refuse_side (s : State) (r : Refusal) : (s.refuse r).side = s.side := rfl
@[simp] theorem State.refuse_prepares (s : State) (r : Refusal) : (s.refuse r).prepares = s.prepares := rfl
@[simp] theorem State.refuse_txSel (s : State) (r : Refusal) : (s.refuse r).txSel = s.txSel := rfl

@[simp] theorem State.faultEncShort_params (s : State) : (s.faultEncShort).params = s.params := rfl
@[simp] theorem State.faultEncShort_units (s : State) : (s.faultEncShort).units = s.units := rfl
@[simp] theorem State.faultEncShort_activeMask (s : State) : (s.faultEncShort).activeMask = s.activeMask := rfl
@[simp] theorem State.faultEncShort_activeCount (s : State) : (s.faultEncShort).activeCount = s.activeCount := rfl
@[simp] theorem State.faultEncShort_waiterValid (s : State) : (s.faultEncShort).waiterValid = s.waiterValid := rfl
@[simp] theorem State.faultEncShort_waiterId (s : State) : (s.faultEncShort).waiterId = s.waiterId := rfl
@[simp] theorem State.faultEncShort_workerCreated (s : State) : (s.faultEncShort).workerCreated = s.workerCreated := rfl
@[simp] theorem State.faultEncShort_workerSig (s : State) : (s.faultEncShort).workerSig = s.workerSig := rfl
@[simp] theorem State.faultEncShort_wkState (s : State) : (s.faultEncShort).wkState = s.wkState := rfl
@[simp] theorem State.faultEncShort_wkMask (s : State) : (s.faultEncShort).wkMask = s.wkMask := rfl
@[simp] theorem State.faultEncShort_wkUnit (s : State) : (s.faultEncShort).wkUnit = s.wkUnit := rfl
@[simp] theorem State.faultEncShort_ctxSwitchReq (s : State) : (s.faultEncShort).ctxSwitchReq = s.ctxSwitchReq := rfl
@[simp] theorem State.faultEncShort_faults (s : State) : (s.faultEncShort).faults = { s.faults with encShort := true } := rfl
@[simp] theorem State.faultEncShort_refused (s : State) : (s.faultEncShort).refused = s.refused := rfl
@[simp] theorem State.faultEncShort_events (s : State) : (s.faultEncShort).events = s.events := rfl
@[simp] theorem State.faultEncShort_agenda (s : State) : (s.faultEncShort).agenda = s.agenda := rfl
@[simp] theorem State.faultEncShort_side (s : State) : (s.faultEncShort).side = s.side := rfl
@[simp] theorem State.faultEncShort_prepares (s : State) : (s.faultEncShort).prepares = s.prepares := rfl
@[simp] theorem State.faultEncShort_txSel (s : State) : (s.faultEncShort).txSel = s.txSel := rfl

@[simp] theorem State.faultTickOverflow_params (s : State) : (s.faultTickOverflow).params = s.params := rfl
@[simp] theorem State.faultTickOverflow_units (s : State) : (s.faultTickOverflow).units = s.units := rfl
@[simp] theorem State.faultTickOverflow_activeMask (s : State) : (s.faultTickOverflow).activeMask = s.activeMask := rfl
@[simp] theorem State.faultTickOverflow_activeCount (s : State) : (s.faultTickOverflow).activeCount = s.activeCount := rfl
@[simp] theorem State.faultTickOverflow_waiterValid (s : State) : (s.faultTickOverflow).waiterValid = s.waiterValid := rfl
@[simp] theorem State.faultTickOverflow_waiterId (s : State) : (s.faultTickOverflow).waiterId = s.waiterId := rfl
@[simp] theorem State.faultTickOverflow_workerCreated (s : State) : (s.faultTickOverflow).workerCreated = s.workerCreated := rfl
@[simp] theorem State.faultTickOverflow_workerSig (s : State) : (s.faultTickOverflow).workerSig = s.workerSig := rfl
@[simp] theorem State.faultTickOverflow_wkState (s : State) : (s.faultTickOverflow).wkState = s.wkState := rfl
@[simp] theorem State.faultTickOverflow_wkMask (s : State) : (s.faultTickOverflow).wkMask = s.wkMask := rfl
@[simp] theorem State.faultTickOverflow_wkUnit (s : State) : (s.faultTickOverflow).wkUnit = s.wkUnit := rfl
@[simp] theorem State.faultTickOverflow_ctxSwitchReq (s : State) : (s.faultTickOverflow).ctxSwitchReq = s.ctxSwitchReq := rfl
@[simp] theorem State.faultTickOverflow_faults (s : State) : (s.faultTickOverflow).faults = { s.faults with tickOverflow := true } := rfl
@[simp] theorem State.faultTickOverflow_refused (s : State) : (s.faultTickOverflow).refused = s.refused := rfl
@[simp] theorem State.faultTickOverflow_events (s : State) : (s.faultTickOverflow).events = s.events := rfl
@[simp] theorem State.faultTickOverflow_agenda (s : State) : (s.faultTickOverflow).agenda = s.agenda := rfl
@[simp] theorem State.faultTickOverflow_side (s : State) : (s.faultTickOverflow).side = s.side := rfl
@[simp] theorem State.faultTickOverflow_prepares (s : State) : (s.faultTickOverflow).prepares = s.prepares := rfl
@[simp] theorem State.faultTickOverflow_txSel (s : State) : (s.faultTickOverflow).txSel = s.txSel := rfl

@[simp] theorem State.beginStep_params (s : State) : (s.beginStep).params = s.params := rfl
@[simp] theorem State.beginStep_units (s : State) : (s.beginStep).units = s.units := rfl
@[simp] theorem State.beginStep_activeMask (s : State) : (s.beginStep).activeMask = s.activeMask := rfl
@[simp] theorem State.beginStep_activeCount (s : State) : (s.beginStep).activeCount = s.activeCount := rfl
@[simp] theorem State.beginStep_waiterValid (s : State) : (s.beginStep).waiterValid = s.waiterValid := rfl
@[simp] theorem State.beginStep_waiterId (s : State) : (s.beginStep).waiterId = s.waiterId := rfl
@[simp] theorem State.beginStep_workerCreated (s : State) : (s.beginStep).workerCreated = s.workerCreated := rfl
@[simp] theorem State.beginStep_workerSig (s : State) : (s.beginStep).workerSig = s.workerSig := rfl
@[simp] theorem State.beginStep_wkState (s : State) : (s.beginStep).wkState = s.wkState := rfl
@[simp] theorem State.beginStep_wkMask (s : State) : (s.beginStep).wkMask = s.wkMask := rfl
@[simp] theorem State.beginStep_wkUnit (s : State) : (s.beginStep).wkUnit = s.wkUnit := rfl
@[simp] theorem State.beginStep_ctxSwitchReq (s : State) : (s.beginStep).ctxSwitchReq = false := rfl
@[simp] theorem State.beginStep_faults (s : State) : (s.beginStep).faults = s.faults := rfl
@[simp] theorem State.beginStep_refused (s : State) : (s.beginStep).refused = s.refused := rfl
@[simp] theorem State.beginStep_events (s : State) : (s.beginStep).events = s.events := rfl
@[simp] theorem State.beginStep_agenda (s : State) : (s.beginStep).agenda = s.agenda := rfl
@[simp] theorem State.beginStep_side (s : State) : (s.beginStep).side = s.side := rfl
@[simp] theorem State.beginStep_prepares (s : State) : (s.beginStep).prepares = s.prepares := rfl
@[simp] theorem State.beginStep_txSel (s : State) : (s.beginStep).txSel = s.txSel := rfl

/-! ### The fields of a unit after each named update -/

@[simp] theorem UnitState.emit_cfg (x : UnitState) (l : Bool) (d : Dur) : (x.emit l d).cfg = x.cfg := rfl
@[simp] theorem UnitState.emit_setup (x : UnitState) (l : Bool) (d : Dur) : (x.emit l d).setup = x.setup := rfl
@[simp] theorem UnitState.emit_direction (x : UnitState) (l : Bool) (d : Dur) : (x.emit l d).direction = x.direction := rfl
@[simp] theorem UnitState.emit_stepsRemaining (x : UnitState) (l : Bool) (d : Dur) : (x.emit l d).stepsRemaining = x.stepsRemaining := rfl
@[simp] theorem UnitState.emit_pendingTicks (x : UnitState) (l : Bool) (d : Dur) : (x.emit l d).pendingTicks = x.pendingTicks := rfl
@[simp] theorem UnitState.emit_head (x : UnitState) (l : Bool) (d : Dur) : (x.emit l d).head = x.head := rfl
@[simp] theorem UnitState.emit_tail (x : UnitState) (l : Bool) (d : Dur) : (x.emit l d).tail = x.tail := rfl
@[simp] theorem UnitState.emit_hwOffset (x : UnitState) (l : Bool) (d : Dur) : (x.emit l d).hwOffset = x.hwOffset := rfl
@[simp] theorem UnitState.emit_armed (x : UnitState) (l : Bool) (d : Dur) : (x.emit l d).armed = x.armed := rfl
@[simp] theorem UnitState.emit_endEmitted (x : UnitState) (l : Bool) (d : Dur) : (x.emit l d).endEmitted = x.endEmitted := rfl
@[simp] theorem UnitState.emit_motion (x : UnitState) (l : Bool) (d : Dur) : (x.emit l d).motion = x.motion := rfl
@[simp] theorem UnitState.emit_motionCalls (x : UnitState) (l : Bool) (d : Dur) : (x.emit l d).motionCalls = x.motionCalls := rfl
@[simp] theorem UnitState.emit_txRun (x : UnitState) (l : Bool) (d : Dur) : (x.emit l d).txRun = x.txRun := rfl
@[simp] theorem UnitState.emit_txPos (x : UnitState) (l : Bool) (d : Dur) : (x.emit l d).txPos = x.txPos := rfl
@[simp] theorem UnitState.emit_txAvail (x : UnitState) (l : Bool) (d : Dur) : (x.emit l d).txAvail = x.txAvail := rfl
@[simp] theorem UnitState.emit_thrPending (x : UnitState) (l : Bool) (d : Dur) : (x.emit l d).thrPending = x.thrPending := rfl
@[simp] theorem UnitState.emit_endPending (x : UnitState) (l : Bool) (d : Dur) : (x.emit l d).endPending = x.endPending := rfl
@[simp] theorem UnitState.emit_txDead (x : UnitState) (l : Bool) (d : Dur) : (x.emit l d).txDead = x.txDead := rfl
@[simp] theorem UnitState.emit_stepOut (x : UnitState) (l : Bool) (d : Dur) : (x.emit l d).stepOut = x.stepOut := rfl
@[simp] theorem UnitState.emit_dirOut (x : UnitState) (l : Bool) (d : Dur) : (x.emit l d).dirOut = x.dirOut := rfl
@[simp] theorem UnitState.emit_trace (x : UnitState) (l : Bool) (d : Dur) : (x.emit l d).trace = x.trace ++ [⟨l, d⟩] := rfl
@[simp] theorem UnitState.emit_ring (x : UnitState) (l : Bool) (d : Dur) : (x.emit l d).ring = x.ring := rfl
@[simp] theorem UnitState.emit_win (x : UnitState) (l : Bool) (d : Dur) : (x.emit l d).win = x.win := rfl

@[simp] theorem UnitState.channelArm_cfg (x : UnitState) (n : Nat) : (x.channelArm n).cfg = x.cfg := rfl
@[simp] theorem UnitState.channelArm_setup (x : UnitState) (n : Nat) : (x.channelArm n).setup = x.setup := rfl
@[simp] theorem UnitState.channelArm_direction (x : UnitState) (n : Nat) : (x.channelArm n).direction = x.direction := rfl
@[simp] theorem UnitState.channelArm_stepsRemaining (x : UnitState) (n : Nat) : (x.channelArm n).stepsRemaining = x.stepsRemaining := rfl
@[simp] theorem UnitState.channelArm_pendingTicks (x : UnitState) (n : Nat) : (x.channelArm n).pendingTicks = x.pendingTicks := rfl
@[simp] theorem UnitState.channelArm_head (x : UnitState) (n : Nat) : (x.channelArm n).head = x.head := rfl
@[simp] theorem UnitState.channelArm_tail (x : UnitState) (n : Nat) : (x.channelArm n).tail = x.tail := rfl
@[simp] theorem UnitState.channelArm_hwOffset (x : UnitState) (n : Nat) : (x.channelArm n).hwOffset = x.hwOffset := rfl
@[simp] theorem UnitState.channelArm_armed (x : UnitState) (n : Nat) : (x.channelArm n).armed = x.armed := rfl
@[simp] theorem UnitState.channelArm_endEmitted (x : UnitState) (n : Nat) : (x.channelArm n).endEmitted = x.endEmitted := rfl
@[simp] theorem UnitState.channelArm_motion (x : UnitState) (n : Nat) : (x.channelArm n).motion = x.motion := rfl
@[simp] theorem UnitState.channelArm_motionCalls (x : UnitState) (n : Nat) : (x.channelArm n).motionCalls = x.motionCalls := rfl
@[simp] theorem UnitState.channelArm_txRun (x : UnitState) (n : Nat) : (x.channelArm n).txRun = true := rfl
@[simp] theorem UnitState.channelArm_txPos (x : UnitState) (n : Nat) : (x.channelArm n).txPos = 0 := rfl
@[simp] theorem UnitState.channelArm_txAvail (x : UnitState) (n : Nat) : (x.channelArm n).txAvail = n := rfl
@[simp] theorem UnitState.channelArm_thrPending (x : UnitState) (n : Nat) : (x.channelArm n).thrPending = false := rfl
@[simp] theorem UnitState.channelArm_endPending (x : UnitState) (n : Nat) : (x.channelArm n).endPending = false := rfl
@[simp] theorem UnitState.channelArm_txDead (x : UnitState) (n : Nat) : (x.channelArm n).txDead = x.txDead := rfl
@[simp] theorem UnitState.channelArm_stepOut (x : UnitState) (n : Nat) : (x.channelArm n).stepOut = x.stepOut := rfl
@[simp] theorem UnitState.channelArm_dirOut (x : UnitState) (n : Nat) : (x.channelArm n).dirOut = x.dirOut := rfl
@[simp] theorem UnitState.channelArm_trace (x : UnitState) (n : Nat) : (x.channelArm n).trace = x.trace := rfl
@[simp] theorem UnitState.channelArm_ring (x : UnitState) (n : Nat) : (x.channelArm n).ring = x.ring := rfl
@[simp] theorem UnitState.channelArm_win (x : UnitState) (n : Nat) : (x.channelArm n).win = x.win := rfl

@[simp] theorem UnitState.channelHalt_cfg (x : UnitState) : (x.channelHalt).cfg = x.cfg := rfl
@[simp] theorem UnitState.channelHalt_setup (x : UnitState) : (x.channelHalt).setup = x.setup := rfl
@[simp] theorem UnitState.channelHalt_direction (x : UnitState) : (x.channelHalt).direction = x.direction := rfl
@[simp] theorem UnitState.channelHalt_stepsRemaining (x : UnitState) : (x.channelHalt).stepsRemaining = x.stepsRemaining := rfl
@[simp] theorem UnitState.channelHalt_pendingTicks (x : UnitState) : (x.channelHalt).pendingTicks = x.pendingTicks := rfl
@[simp] theorem UnitState.channelHalt_head (x : UnitState) : (x.channelHalt).head = x.head := rfl
@[simp] theorem UnitState.channelHalt_tail (x : UnitState) : (x.channelHalt).tail = x.tail := rfl
@[simp] theorem UnitState.channelHalt_hwOffset (x : UnitState) : (x.channelHalt).hwOffset = x.hwOffset := rfl
@[simp] theorem UnitState.channelHalt_armed (x : UnitState) : (x.channelHalt).armed = x.armed := rfl
@[simp] theorem UnitState.channelHalt_endEmitted (x : UnitState) : (x.channelHalt).endEmitted = x.endEmitted := rfl
@[simp] theorem UnitState.channelHalt_motion (x : UnitState) : (x.channelHalt).motion = x.motion := rfl
@[simp] theorem UnitState.channelHalt_motionCalls (x : UnitState) : (x.channelHalt).motionCalls = x.motionCalls := rfl
@[simp] theorem UnitState.channelHalt_txRun (x : UnitState) : (x.channelHalt).txRun = false := rfl
@[simp] theorem UnitState.channelHalt_txPos (x : UnitState) : (x.channelHalt).txPos = 0 := rfl
@[simp] theorem UnitState.channelHalt_txAvail (x : UnitState) : (x.channelHalt).txAvail = 0 := rfl
@[simp] theorem UnitState.channelHalt_thrPending (x : UnitState) : (x.channelHalt).thrPending = false := rfl
@[simp] theorem UnitState.channelHalt_endPending (x : UnitState) : (x.channelHalt).endPending = false := rfl
@[simp] theorem UnitState.channelHalt_txDead (x : UnitState) : (x.channelHalt).txDead = x.txDead := rfl
@[simp] theorem UnitState.channelHalt_stepOut (x : UnitState) : (x.channelHalt).stepOut = false := rfl
@[simp] theorem UnitState.channelHalt_dirOut (x : UnitState) : (x.channelHalt).dirOut = x.dirOut := rfl
@[simp] theorem UnitState.channelHalt_trace (x : UnitState) : (x.channelHalt).trace = x.trace := rfl
@[simp] theorem UnitState.channelHalt_ring (x : UnitState) : (x.channelHalt).ring = x.ring := rfl
@[simp] theorem UnitState.channelHalt_win (x : UnitState) : (x.channelHalt).win = x.win := rfl

@[simp] theorem UnitState.called_cfg (x : UnitState) : (x.called).cfg = x.cfg := rfl
@[simp] theorem UnitState.called_setup (x : UnitState) : (x.called).setup = x.setup := rfl
@[simp] theorem UnitState.called_direction (x : UnitState) : (x.called).direction = x.direction := rfl
@[simp] theorem UnitState.called_stepsRemaining (x : UnitState) : (x.called).stepsRemaining = x.stepsRemaining := rfl
@[simp] theorem UnitState.called_pendingTicks (x : UnitState) : (x.called).pendingTicks = x.pendingTicks := rfl
@[simp] theorem UnitState.called_head (x : UnitState) : (x.called).head = x.head := rfl
@[simp] theorem UnitState.called_tail (x : UnitState) : (x.called).tail = x.tail := rfl
@[simp] theorem UnitState.called_hwOffset (x : UnitState) : (x.called).hwOffset = x.hwOffset := rfl
@[simp] theorem UnitState.called_armed (x : UnitState) : (x.called).armed = x.armed := rfl
@[simp] theorem UnitState.called_endEmitted (x : UnitState) : (x.called).endEmitted = x.endEmitted := rfl
@[simp] theorem UnitState.called_motion (x : UnitState) : (x.called).motion = x.motion := rfl
@[simp] theorem UnitState.called_motionCalls (x : UnitState) : (x.called).motionCalls = x.motionCalls + 1 := rfl
@[simp] theorem UnitState.called_txRun (x : UnitState) : (x.called).txRun = x.txRun := rfl
@[simp] theorem UnitState.called_txPos (x : UnitState) : (x.called).txPos = x.txPos := rfl
@[simp] theorem UnitState.called_txAvail (x : UnitState) : (x.called).txAvail = x.txAvail := rfl
@[simp] theorem UnitState.called_thrPending (x : UnitState) : (x.called).thrPending = x.thrPending := rfl
@[simp] theorem UnitState.called_endPending (x : UnitState) : (x.called).endPending = x.endPending := rfl
@[simp] theorem UnitState.called_txDead (x : UnitState) : (x.called).txDead = x.txDead := rfl
@[simp] theorem UnitState.called_stepOut (x : UnitState) : (x.called).stepOut = x.stepOut := rfl
@[simp] theorem UnitState.called_dirOut (x : UnitState) : (x.called).dirOut = x.dirOut := rfl
@[simp] theorem UnitState.called_trace (x : UnitState) : (x.called).trace = x.trace := rfl
@[simp] theorem UnitState.called_ring (x : UnitState) : (x.called).ring = x.ring := rfl
@[simp] theorem UnitState.called_win (x : UnitState) : (x.called).win = x.win := rfl

@[simp] theorem UnitState.carry_cfg (x : UnitState) (p : Nat) : (x.carry p).cfg = x.cfg := rfl
@[simp] theorem UnitState.carry_setup (x : UnitState) (p : Nat) : (x.carry p).setup = x.setup := rfl
@[simp] theorem UnitState.carry_direction (x : UnitState) (p : Nat) : (x.carry p).direction = x.direction := rfl
@[simp] theorem UnitState.carry_stepsRemaining (x : UnitState) (p : Nat) : (x.carry p).stepsRemaining = if p = 0 then x.stepsRemaining - 1 else x.stepsRemaining := rfl
@[simp] theorem UnitState.carry_pendingTicks (x : UnitState) (p : Nat) : (x.carry p).pendingTicks = BitVec.ofNat 32 p := rfl
@[simp] theorem UnitState.carry_head (x : UnitState) (p : Nat) : (x.carry p).head = x.head := rfl
@[simp] theorem UnitState.carry_tail (x : UnitState) (p : Nat) : (x.carry p).tail = x.tail := rfl
@[simp] theorem UnitState.carry_hwOffset (x : UnitState) (p : Nat) : (x.carry p).hwOffset = x.hwOffset := rfl
@[simp] theorem UnitState.carry_armed (x : UnitState) (p : Nat) : (x.carry p).armed = x.armed := rfl
@[simp] theorem UnitState.carry_endEmitted (x : UnitState) (p : Nat) : (x.carry p).endEmitted = x.endEmitted := rfl
@[simp] theorem UnitState.carry_motion (x : UnitState) (p : Nat) : (x.carry p).motion = x.motion := rfl
@[simp] theorem UnitState.carry_motionCalls (x : UnitState) (p : Nat) : (x.carry p).motionCalls = x.motionCalls := rfl
@[simp] theorem UnitState.carry_txRun (x : UnitState) (p : Nat) : (x.carry p).txRun = x.txRun := rfl
@[simp] theorem UnitState.carry_txPos (x : UnitState) (p : Nat) : (x.carry p).txPos = x.txPos := rfl
@[simp] theorem UnitState.carry_txAvail (x : UnitState) (p : Nat) : (x.carry p).txAvail = x.txAvail := rfl
@[simp] theorem UnitState.carry_thrPending (x : UnitState) (p : Nat) : (x.carry p).thrPending = x.thrPending := rfl
@[simp] theorem UnitState.carry_endPending (x : UnitState) (p : Nat) : (x.carry p).endPending = x.endPending := rfl
@[simp] theorem UnitState.carry_txDead (x : UnitState) (p : Nat) : (x.carry p).txDead = x.txDead := rfl
@[simp] theorem UnitState.carry_stepOut (x : UnitState) (p : Nat) : (x.carry p).stepOut = x.stepOut := rfl
@[simp] theorem UnitState.carry_dirOut (x : UnitState) (p : Nat) : (x.carry p).dirOut = x.dirOut := rfl
@[simp] theorem UnitState.carry_trace (x : UnitState) (p : Nat) : (x.carry p).trace = x.trace := rfl
@[simp] theorem UnitState.carry_ring (x : UnitState) (p : Nat) : (x.carry p).ring = x.ring := rfl
@[simp] theorem UnitState.carry_win (x : UnitState) (p : Nat) : (x.carry p).win = x.win := rfl

/-! ### The registry -/

@[simp] theorem State.respond_eq (s : State) (w : RespWord) : s.respond w = s.log (.response w) := rfl

@[simp] theorem State.raise_eq (s : State) (e : CmdError) : s.raise e = s.log (.response (respErr e)) := rfl

@[simp] theorem State.nstep_setUnit (s : State) (u : Nat) (x : UnitState) : (s.setUnit u x).nstep = s.nstep := by
  simp [State.nstep]

@[simp] theorem State.nstep_modUnit (s : State) (u : Nat) (f : UnitState → UnitState) :
    (s.modUnit u f).nstep = s.nstep := State.nstep_setUnit _ _ _

/-- Two states with one registry have one `unit`. -/
theorem State.unit_congr {s t : State} (h : t.units = s.units) (u : Nat) : t.unit u = s.unit u := by
  simp only [State.unit, h]

theorem State.nstep_congr {s t : State} (h : t.units = s.units) : t.nstep = s.nstep := by
  simp only [State.nstep, h]

/-- A number that names no unit reads as an entry at reset. -/
theorem State.unit_of_ge {s : State} {u : Nat} (h : s.nstep ≤ u) : s.unit u = UnitState.reset := by
  simp only [State.unit, List.getD_eq_getElem?_getD, List.getElem?_eq_none h, Option.getD_none]

theorem State.unit_setUnit (s : State) (u v : Nat) (x : UnitState) :
    (s.setUnit u x).unit v = if v = u ∧ u < s.nstep then x else s.unit v := by
  simp only [State.unit, State.setUnit, State.nstep, List.getD_eq_getElem?_getD, List.getElem?_set]
  by_cases h : u = v
  · subst h
    by_cases h2 : u < s.units.length <;> simp [h2]
  · simp [h, Ne.symm h]

theorem State.unit_modUnit (s : State) (u v : Nat) (f : UnitState → UnitState) :
    (s.modUnit u f).unit v = if v = u ∧ u < s.nstep then f (s.unit u) else s.unit v :=
  State.unit_setUnit _ _ _ _

@[simp] theorem State.unit_modUnit_same {s : State} {u : Nat} (h : u < s.nstep) (f : UnitState → UnitState) :
    (s.modUnit u f).unit u = f (s.unit u) := by
  simp [State.unit_modUnit, h]

theorem State.unit_modUnit_ne {s : State} {u v : Nat} (h : v ≠ u) (f : UnitState → UnitState) :
    (s.modUnit u f).unit v = s.unit v := by
  simp [State.unit_modUnit, h]

@[simp] theorem State.nstep_clearThreshold (s : State) (u : Nat) : (s.clearThreshold u).nstep = s.nstep :=
  State.nstep_modUnit _ _ _

/-- Clearing a threshold latch changes nothing else of any unit. -/
theorem State.unit_clearThreshold (s : State) (u v : Nat) :
    (s.clearThreshold u).unit v = if v = u ∧ u < s.nstep then { s.unit u with thrPending := false } else s.unit v :=
  State.unit_modUnit _ _ _ _

@[simp] theorem State.unit_log (s : State) (e : Event) (u : Nat) : (s.log e).unit u = s.unit u := rfl

@[simp] theorem State.unit_post (s : State) (m : Mask) (u : Nat) : (s.post m).unit u = s.unit u := rfl

@[simp] theorem State.unit_refuse (s : State) (r : Refusal) (u : Nat) : (s.refuse r).unit u = s.unit u := rfl

@[simp] theorem State.unit_beginStep (s : State) (u : Nat) : s.beginStep.unit u = s.unit u := rfl

@[simp] theorem State.unit_faultEncShort (s : State) (u : Nat) : s.faultEncShort.unit u = s.unit u := rfl

@[simp] theorem State.unit_faultTickOverflow (s : State) (u : Nat) : s.faultTickOverflow.unit u = s.unit u := rfl

/-- A unit that runs, is set up, or has an event pending is a unit of the registry. -/
theorem State.lt_nstep_of_unit_ne {s : State} {u : Nat} (h : s.unit u ≠ UnitState.reset) : u < s.nstep := by
  by_contra h1
  exact h (State.unit_of_ge (by omega))

end Sys2Proof.Machine
end

