-- ==== Sys2Proof/Laws/Ops.lean ====
section
/-! SUPPORT. What each shared operation can do, said once; and the one inversion lemma of each meaning: if it answers a next state, which state that is. -/

namespace Sys2Proof.Machine

/-! ### Masks -/

theorem lt_of_getLsbD {m : Mask} {i : Nat} (h : m.getLsbD i = true) : i < Config.maxUnits := by
  by_contra h1
  simp [BitVec.getLsbD_of_ge m i (by simpa [Config.maxUnits] using h1)] at h

theorem getLsbD_unitBit (u i : Nat) : (unitBit u).getLsbD i = (decide (i < 16) && decide (i = u)) := by
  unfold unitBit; grind

/-- Clearing a bit leaves the others. -/
theorem getLsbD_clear (m : Mask) (u i : Nat) : (m &&& ~~~ unitBit u).getLsbD i = (m.getLsbD i && decide (i ≠ u)) := by
  rw [BitVec.getLsbD_and, BitVec.getLsbD_not, getLsbD_unitBit]
  by_cases h : i < 16
  · rw [decide_eq_true h, Bool.true_and, Bool.true_and, decide_not]
  · rw [BitVec.getLsbD_of_ge m i (by omega)]
    rfl

/-- A predicate that loses exactly one element of a list without repeats is counted once less. -/
theorem countP_lose {p q : Nat → Bool} {u : Nat} : ∀ {l : List Nat}, l.Nodup → u ∈ l → p u = true → q u = false →
    (∀ i, i ≠ u → q i = p i) → l.countP q + 1 = l.countP p
  | [], _, hu, _, _, _ => by simp at hu
  | a :: l, hn, hu, hp, hq, hi => by
    rw [List.nodup_cons] at hn
    by_cases h : a = u
    · subst h
      have : l.countP q = l.countP p := List.countP_congr fun x hx => by
        rw [hi x (fun h => hn.1 (h ▸ hx))]
      simp [hp, hq, this]
    · have ih := countP_lose hn.2 ((List.mem_cons.1 hu).resolve_left (Ne.symm h)) hp hq hi
      simp only [List.countP_cons, hi a h]
      omega

/-- Clearing a set bit takes one from the population count (R43). -/
theorem popcount_clear {m : Mask} {u : Nat} (h : m.getLsbD u = true) :
    popcount (m &&& ~~~ unitBit u) + 1 = popcount m :=
  countP_lose List.nodup_range (List.mem_range.2 (lt_of_getLsbD h)) h
    (by rw [getLsbD_clear, decide_eq_false (by simp), Bool.and_false])
    (fun i hi => by rw [getLsbD_clear, decide_eq_true hi, Bool.and_true])

/-- A mask with a bit set is counted. -/
theorem popcount_pos {m : Mask} {u : Nat} (h : m.getLsbD u = true) : 0 < popcount m := by
  have := popcount_clear h
  omega

theorem exists_bit_of_ne_zero {m : Mask} (h : m ≠ 0) : ∃ u, m.getLsbD u = true := by
  by_contra h1
  push Not at h1
  exact h (BitVec.eq_of_getLsbD_eq fun i hi => by simpa using h1 i)

/-- `lowbit` finds a bit of a mask that has one (R9). -/
theorem lowbit_spec {m : Mask} (h : m ≠ 0) : ∃ u, lowbit m = some u ∧ m.getLsbD u = true := by
  obtain ⟨u, hu⟩ := exists_bit_of_ne_zero h
  cases hl : lowbit m with
  | none =>
    unfold lowbit at hl
    rw [List.find?_eq_none] at hl
    exact absurd hu (hl u (List.mem_range.2 (lt_of_getLsbD hu)))
  | some v => exact ⟨v, rfl, by unfold lowbit at hl; simpa using List.find?_some hl⟩

/-- `nextbit` finds a bit of the mask above the given index (R9). -/
theorem nextbit_spec {m : Mask} {i j : Nat} (h : nextbit m i = some j) : i < j ∧ m.getLsbD j = true := by
  unfold nextbit at h
  simpa using List.find?_some h

/-! ### The Synchronization State -/

theorem State.wake_of_valid {s : State} (h : s.waiterValid = true) :
    s.wake = { s.log (.startDone s.waiterId respOk) with waiterValid := false } := by
  simp [State.wake, h]

theorem State.wake_of_none {s : State} (h : s.waiterValid = false) : s.wake = s := by
  simp [State.wake, h]

/-- `wake()` touches nothing but the waiter's valid bit and the record of responses (R215). -/
theorem State.wake_frame (s : State) :
    s.wake.params = s.params ∧ s.wake.units = s.units ∧ s.wake.activeMask = s.activeMask ∧
    s.wake.activeCount = s.activeCount ∧ s.wake.waiterId = s.waiterId ∧ s.wake.workerCreated = s.workerCreated ∧
    s.wake.workerSig = s.workerSig ∧ s.wake.wkState = s.wkState ∧ s.wake.wkMask = s.wkMask ∧
    s.wake.wkUnit = s.wkUnit ∧ s.wake.ctxSwitchReq = s.ctxSwitchReq ∧ s.wake.faults = s.faults ∧
    s.wake.refused = s.refused ∧ s.wake.agenda = s.agenda ∧ s.wake.side = s.side ∧
    s.wake.prepares = s.prepares ∧ s.wake.txSel = s.txSel := by
  cases h : s.waiterValid <;> simp [State.wake, h]

/-- Retiring a unit while others remain: one bit, one count (R197, R214, R218). -/
theorem State.retire_of_more {s : State} {u : Nat} (h : s.activeCount - 1 ≠ 0) :
    s.retire u = { s with activeMask := s.activeMask &&& ~~~ unitBit u, activeCount := s.activeCount - 1 } := by
  simp [State.retire, h]

/-- Retiring the last unit wakes the waiter (R215). -/
theorem State.retire_of_last {s : State} {u : Nat} (h : s.activeCount - 1 = 0) :
    s.retire u = State.wake { s with activeMask := s.activeMask &&& ~~~ unitBit u, activeCount := 0 } := by
  simp [State.retire, h]

/-- What retiring a unit leaves alone, and the two registers it always writes. -/
theorem State.retire_frame (s : State) (u : Nat) :
    (s.retire u).params = s.params ∧ (s.retire u).units = s.units ∧
    (s.retire u).activeMask = s.activeMask &&& ~~~ unitBit u ∧ (s.retire u).activeCount = s.activeCount - 1 ∧
    (s.retire u).waiterId = s.waiterId ∧ (s.retire u).workerCreated = s.workerCreated ∧
    (s.retire u).workerSig = s.workerSig ∧ (s.retire u).wkState = s.wkState ∧ (s.retire u).wkMask = s.wkMask ∧
    (s.retire u).wkUnit = s.wkUnit ∧ (s.retire u).ctxSwitchReq = s.ctxSwitchReq ∧ (s.retire u).faults = s.faults ∧
    (s.retire u).refused = s.refused ∧ (s.retire u).agenda = s.agenda ∧ (s.retire u).side = s.side ∧
    (s.retire u).prepares = s.prepares ∧ (s.retire u).txSel = s.txSel := by
  by_cases h : s.activeCount - 1 = 0
  · rw [State.retire_of_last h]
    obtain ⟨h1, h2, h3, h4, h5, h6, h7, h8, h9, h10, h11, h12, h13, h14, h15, h16, h17⟩ :=
      State.wake_frame { s with activeMask := s.activeMask &&& ~~~ unitBit u, activeCount := 0 }
    exact ⟨h1, h2, h3, by rw [h4, h], h5, h6, h7, h8, h9, h10, h11, h12, h13, h14, h15, h16, h17⟩
  · rw [State.retire_of_more h]; simp

@[simp] theorem State.unit_retire (s : State) (u v : Nat) : (s.retire u).unit v = s.unit v :=
  State.unit_congr (State.retire_frame s u).2.1 v

@[simp] theorem State.nstep_retire (s : State) (u : Nat) : (s.retire u).nstep = s.nstep :=
  State.nstep_congr (State.retire_frame s u).2.1

/-! ### The encoder and the transmitter -/

/-- ENC_FIRST on an interval the contract covers (R130, R133). -/
theorem State.encodeFirst_valid {s : State} {u t : Nat} (h1 : s.params.pulse < t) (h2 : t < Config.tickLimit) :
    s.encodeFirst u t =
      ((s.modUnit u UnitState.called).ringPush u (stepWord t s.params.pulse)).modUnit u
        fun x => x.carry (firstCarry t s.params.pulse) := by
  simp [State.encodeFirst, Nat.not_le.2 h1, Nat.not_le.2 h2]

theorem State.encodeFirst_overflow {s : State} {u t : Nat} (h : Config.tickLimit ≤ t) :
    s.encodeFirst u t = (s.modUnit u UnitState.called).faultTickOverflow := by
  simp [State.encodeFirst, h]

theorem State.encodeFirst_short {s : State} {u t : Nat} (h1 : t ≤ s.params.pulse) (h2 : t < Config.tickLimit) :
    s.encodeFirst u t = (s.modUnit u UnitState.called).faultEncShort := by
  simp [State.encodeFirst, h1, Nat.not_le.2 h2]

theorem State.transmit_bad {s : State} {u : Nat} {w : Desc} (h : bothZero w = true) :
    s.transmit u w = s.faultBadDescriptor u := by
  simp [State.transmit, h]

theorem State.consume_marker (s : State) (u : Nat) : s.consume u marker = s.endTrain u := by
  simp [State.consume]

theorem State.consume_of_ne {s : State} {u : Nat} {w : Desc} (h : w ≠ marker) : s.consume u w = s.transmit u w := by
  simp [State.consume, h]

/-! ### The boundary conversions -/

/-- The call's MOVE depends on the state only through the unit's steps per unit (R21, R236). -/
theorem State.moveCall_congr {s t : State} {u : BitVec 8} (d : Ratio)
    (h : (t.unit u.toNat).cfg.stepsPerUnit = (s.unit u.toNat).cfg.stepsPerUnit) : t.moveCall u d = s.moveCall u d := by
  simp only [State.moveCall, h]

/-- The call becomes a MOVE of the same unit or nothing (R118, R236). -/
theorem State.moveCall_some {s : State} {u : BitVec 8} {d : Ratio} {i : Instr} (h : s.moveCall u d = some i) :
    stepsOfDistance d (s.unit u.toNat).cfg.stepsPerUnit < 2 ^ 32 ∧
    i = .move u (dirOfDistance d) (BitVec.ofNat 32 (stepsOfDistance d (s.unit u.toNat).cfg.stepsPerUnit)) := by
  unfold State.moveCall moveOfDistance at h
  split at h
  · next hlt => exact ⟨hlt, (Option.some.inj h).symm⟩
  · cases h

/-! ### START's directions and STOP's critical section -/

theorem State.nstep_driveDirections (s : State) (m : Mask) : (s.driveDirections m).nstep = s.nstep := by
  simp [State.nstep, State.driveDirections]

/-- START drives the direction output of the units of its mask and changes nothing else of any unit. -/
theorem State.unit_driveDirections (s : State) (m : Mask) {u : Nat} (h : u < s.nstep) :
    (s.driveDirections m).unit u =
      if m.getLsbD u then { s.unit u with dirOut := (s.unit u).direction } else s.unit u := by
  have h' : u < s.units.length := h
  simp [State.unit, State.driveDirections, List.getD_eq_getElem?_getD, h']

/-- What STOP does at one unit. -/
theorem State.stopUnit_cases (m : Mask) (s : State) (u : Nat) :
    (¬ (m.getLsbD u = true ∧ s.activeMask.getLsbD u = true) ∧ s.stopUnit m u = s) ∨
    (m.getLsbD u = true ∧ s.activeMask.getLsbD u = true ∧
      s.stopUnit m u = (s.modUnit u UnitState.channelHalt).retire u) := by
  unfold State.stopUnit
  split
  · next h =>
    rw [Bool.and_eq_true] at h
    exact .inr ⟨h.1, h.2, rfl⟩
  · next h =>
    rw [Bool.and_eq_true] at h
    exact .inl ⟨h, rfl⟩

/-- A property that STOP's action at each unit keeps holds after the whole critical section. -/
theorem State.stopAll_induct {P : State → Prop} {s : State} {m : Mask} (h0 : P s)
    (h : ∀ t u, u < s.nstep → P t → P (t.stopUnit m u)) : P (s.stopAll m) := by
  have key : ∀ (l : List Nat) (t : State), (∀ u ∈ l, u < s.nstep) → P t → P (l.foldl (State.stopUnit m) t) := by
    intro l
    induction l with
    | nil => exact fun _ _ ht => ht
    | cons a l ih =>
      intro t hl ht
      exact ih _ (fun u hu => hl u (List.mem_cons_of_mem _ hu)) (h t a (hl a List.mem_cons_self) ht)
  exact key _ s (fun u hu => List.mem_range.mp hu) h0

/-! ### Inversion: what a meaning that answers a next state has done -/

variable {s t : State}

theorem waits_next (h : waits s = .next t) : t = s := by
  simp only [waits, Host.Outcome.next.injEq] at h
  exact h.symm

theorem execSetup_next {sp dp : BitVec 8} (h : execSetup sp dp s = .next t) :
    (∃ e, t = s.raise e) ∨
    (∃ u, s.freeUnit = some u ∧ s.side.pinValid = true ∧ s.side.allocOk = true ∧ s.side.pinlock = none ∧
      s.side.configure = none ∧ t = s.claim u (s.side.cfg sp dp)) := by
  unfold execSetup at h
  split at h
  · exact .inl ⟨_, (Host.Outcome.next.inj h).symm⟩
  · next hp =>
    split at h
    · exact .inl ⟨_, (Host.Outcome.next.inj h).symm⟩
    · next u hu =>
      split at h
      · exact .inl ⟨_, (Host.Outcome.next.inj h).symm⟩
      · next ha =>
        split at h
        · exact .inl ⟨_, (Host.Outcome.next.inj h).symm⟩
        · exact .inl ⟨_, (Host.Outcome.next.inj h).symm⟩
        · next h1 h2 =>
          exact .inr ⟨u, hu, by simpa using hp, by simpa using ha, h1, h2, (Host.Outcome.next.inj h).symm⟩

theorem execMove_next {u : BitVec 8} {d : Bool} {n : BitVec 32} (h : execMove u d n s = .next t) :
    (∃ e, t = s.raise e) ∨ t = s.refuse .busyMove ∨
    (u.toNat < s.nstep ∧ (s.unit u.toNat).setup = true ∧ s.fullyIdle u.toNat = true ∧ t = s.load u.toNat d n) := by
  unfold execMove at h
  split at h
  · exact .inl ⟨_, (Host.Outcome.next.inj h).symm⟩
  · next h1 =>
    split at h
    · exact .inl ⟨_, (Host.Outcome.next.inj h).symm⟩
    · next h2 =>
      split at h
      · exact .inr (.inl (Host.Outcome.next.inj h).symm)
      · next h3 =>
        exact .inr (.inr ⟨by omega, by simpa using h2, by simpa using h3, (Host.Outcome.next.inj h).symm⟩)

theorem execStart_next {m : Mask} {c : BitVec 32} (h : execStart m c s = .next t) :
    (∃ e, t = s.raise e) ∨ (∃ r, t = s.refuse r) ∨
    (beyond m s.nstep = 0 ∧ m ≠ 0 ∧ s.waiterValid = false ∧ s.activeCount = 0 ∧ s.someNotSetup m = false ∧
      t = s.begin m c) := by
  unfold execStart at h
  split at h
  · exact .inl ⟨_, (Host.Outcome.next.inj h).symm⟩
  · next h1 =>
    split at h
    · exact .inr (.inl ⟨_, (Host.Outcome.next.inj h).symm⟩)
    · next h2 =>
      split at h
      · exact .inr (.inl ⟨_, (Host.Outcome.next.inj h).symm⟩)
      · next h3 =>
        push Not at h3
        split at h
        · exact .inl ⟨_, (Host.Outcome.next.inj h).symm⟩
        · next h4 =>
          exact .inr (.inr ⟨by simpa using h1, h2, by simpa using h3.1, h3.2, by simpa using h4,
            (Host.Outcome.next.inj h).symm⟩)

theorem execStop_next {m : Mask} (h : execStop m s = .next t) : t = (s.stopAll m).respond respOk :=
  (Host.Outcome.next.inj h).symm

theorem execWkTake_next (h : execWkTake s = .next t) :
    t = s ∨ (s.canTake = true ∧
      t = { s with wkMask := s.workerSig, workerSig := 0, wkUnit := lowbit s.workerSig, wkState := .fill }) := by
  unfold execWkTake at h
  split at h
  · next h1 => exact .inr ⟨h1, (Host.Outcome.next.inj h).symm⟩
  · exact .inl (waits_next h)

theorem execEncFirst_next {u : BitVec 8} (h : execEncFirst u s = .next t) :
    t = s ∨ (s.canEncFirst u.toNat = true ∧ t = s.encodeFirst u.toNat (s.unit u.toNat).nextSample) := by
  unfold execEncFirst at h
  split at h
  · next h1 => exact .inr ⟨h1, (Host.Outcome.next.inj h).symm⟩
  · exact .inl (waits_next h)

theorem execEncCont_next {u : BitVec 8} (h : execEncCont u s = .next t) :
    t = s ∨ (s.canEncCont u.toNat = true ∧
      t = (s.ringPush u.toNat (lowWord (s.unit u.toNat).pendingTicks.toNat)).modUnit u.toNat
        fun x => x.carry (contCarry (s.unit u.toNat).pendingTicks.toNat)) := by
  unfold execEncCont at h
  split at h
  · next h1 => exact .inr ⟨h1, (Host.Outcome.next.inj h).symm⟩
  · exact .inl (waits_next h)

theorem execEncEnd_next {u : BitVec 8} (h : execEncEnd u s = .next t) :
    t = s ∨ (s.canEncEnd u.toNat = true ∧
      t = (s.ringPush u.toNat marker).modUnit u.toNat fun x => { x with endEmitted := true }) := by
  unfold execEncEnd at h
  split at h
  · next h1 => exact .inr ⟨h1, (Host.Outcome.next.inj h).symm⟩
  · exact .inl (waits_next h)

theorem execWkNext_next (h : execWkNext s = .next t) :
    t = s ∨ (∃ u, s.wkUnit = some u ∧ s.canNext u = true ∧ t = s.leaveFill u) := by
  unfold execWkNext at h
  split at h
  · next u hu =>
    split at h
    · next h1 => exact .inr ⟨u, hu, h1, (Host.Outcome.next.inj h).symm⟩
    · exact .inl (waits_next h)
  · exact .inl (waits_next h)

theorem execWkArm_next (h : execWkArm s = .next t) :
    t = s ∨ (∃ u, s.wkUnit = some u ∧ s.canArmPass u = true ∧
      ((s.armReady u = false ∧ t = s.leaveArm u) ∨
       (s.armReady u = true ∧ ∃ ws, s.ringOldest u (min (s.count u) s.params.winSize) = some ws ∧
         t = (s.armUnit u ws).leaveArm u))) := by
  unfold execWkArm at h
  split at h
  · exact .inl (waits_next h)
  · next u hu =>
    split at h
    · next h1 =>
      split at h
      · next h2 =>
        split at h
        · next ws hws => exact .inr ⟨u, hu, h1, .inr ⟨h2, ws, hws, (Host.Outcome.next.inj h).symm⟩⟩
        · cases h
      · next h2 => exact .inr ⟨u, hu, h1, .inl ⟨by simpa using h2, (Host.Outcome.next.inj h).symm⟩⟩
    · exact .inl (waits_next h)

theorem execTxDesc_next {u : BitVec 8} (h : execTxDesc u s = .next t) :
    t = s ∨ (s.txReady u.toNat = true ∧ ∃ w, s.fetchWord u.toNat = some w ∧ w ≠ marker ∧
      t = s.transmit u.toNat w) := by
  unfold execTxDesc at h
  split at h
  · next h1 =>
    split at h
    · next w hw =>
      split at h
      · exact .inl (waits_next h)
      · next h2 => exact .inr ⟨h1, w, hw, h2, (Host.Outcome.next.inj h).symm⟩
    · cases h
  · exact .inl (waits_next h)

theorem execTxEnd_next {u : BitVec 8} (h : execTxEnd u s = .next t) :
    t = s ∨ (s.txReady u.toNat = true ∧ s.fetchWord u.toNat = some marker ∧ t = s.endTrain u.toNat) := by
  unfold execTxEnd at h
  split at h
  · next h1 =>
    split at h
    · next w hw =>
      split at h
      · next h2 => exact .inr ⟨h1, h2 ▸ hw, (Host.Outcome.next.inj h).symm⟩
      · exact .inl (waits_next h)
    · cases h
  · exact .inl (waits_next h)

theorem execHThr_next {u : BitVec 8} (h : execHThr u s = .next t) :
    t = s ∨ ((s.unit u.toNat).thrPending = true ∧
      (((s.unit u.toNat).armed = true ∧
        ∃ ws, s.ringOldest u.toNat (min s.params.half (s.count u.toNat)) = some ws ∧
          t = if ws.length = 0 then s.refill u.toNat ws else (s.refill u.toNat ws).post (unitBit u.toNat)) ∨
       ((s.unit u.toNat).armed = false ∧ t = s.clearThreshold u.toNat))) := by
  unfold execHThr at h
  split at h
  · next h1 =>
    split at h
    · next h2 =>
      split at h
      · next ws hws => exact .inr ⟨h1, .inl ⟨h2, ws, hws, (Host.Outcome.next.inj h).symm⟩⟩
      · cases h
    · next h2 => exact .inr ⟨h1, .inr ⟨by simpa using h2, (Host.Outcome.next.inj h).symm⟩⟩
  · exact .inl (waits_next h)

theorem execHEnd_next {u : BitVec 8} (h : execHEnd u s = .next t) :
    t = s ∨ ((s.unit u.toNat).endPending = true ∧ t = s.complete u.toNat) := by
  unfold execHEnd at h
  split at h
  · next h1 => exact .inr ⟨h1, (Host.Outcome.next.inj h).symm⟩
  · exact .inl (waits_next h)

theorem execDescEnd_next (h : execDescEnd s = .next t) :
    t = s ∨ (s.txReady s.txSel.toNat = true ∧ t = s.consume s.txSel.toNat marker) := by
  unfold execDescEnd at h
  split at h
  · next h1 => exact .inr ⟨h1, (Host.Outcome.next.inj h).symm⟩
  · exact .inl (waits_next h)

theorem execDescStep_next {a b : Dur} (h : execDescStep a b s = .next t) :
    t = s ∨ (s.txReady s.txSel.toNat = true ∧ t = s.consume s.txSel.toNat (desc true a false b)) := by
  unfold execDescStep at h
  split at h
  · next h1 => exact .inr ⟨h1, (Host.Outcome.next.inj h).symm⟩
  · exact .inl (waits_next h)

theorem execDescLow_next {a b : Dur} (h : execDescLow a b s = .next t) :
    t = s ∨ (s.txReady s.txSel.toNat = true ∧ t = s.consume s.txSel.toNat (desc false a false b)) := by
  unfold execDescLow at h
  split at h
  · next h1 => exact .inr ⟨h1, (Host.Outcome.next.inj h).symm⟩
  · exact .inl (waits_next h)

/-- What a step that answers a next state has done. -/
theorem step_next (h : step s = .next t) :
    s.paramsOk = true ∧ s.refused = none ∧
    ((∃ i s', s.fetch = .run i s' ∧ exec i s' = .next t) ∨ s.fetch = .idle t ∨
     (∃ r s', s.fetch = .reserved r s' ∧ t = s'.refuse r)) := by
  unfold step at h
  split at h
  · next hp =>
    split at h
    · cases h
    · next hr =>
      refine ⟨hp, hr, ?_⟩
      split at h
      · next i s' hf => exact .inl ⟨i, s', hf, h⟩
      · next s' hf => exact .inr (.inl (by rw [hf, waits_next h]))
      · next r s' hf => exact .inr (.inr ⟨r, s', hf, (Host.Outcome.next.inj h).symm⟩)
  · cases h

/-- The state a fetched operation runs on differs from the step's only in the model's own fields and the pulse. -/
theorem fetch_frame {s s' : State} (h : (∃ i, s.fetch = .run i s') ∨ s.fetch = .idle s' ∨ ∃ r, s.fetch = .reserved r s') :
    s'.params = s.params ∧ s'.units = s.units ∧ s'.activeMask = s.activeMask ∧ s'.activeCount = s.activeCount ∧
    s'.waiterValid = s.waiterValid ∧ s'.waiterId = s.waiterId ∧ s'.workerCreated = s.workerCreated ∧
    s'.workerSig = s.workerSig ∧ s'.wkState = s.wkState ∧ s'.wkMask = s.wkMask ∧ s'.wkUnit = s.wkUnit ∧
    s'.ctxSwitchReq = false ∧ s'.faults = s.faults ∧ s'.refused = s.refused ∧ s'.events = s.events ∧
    s'.prepares = s.prepares := by
  have key : ∀ (c : Option Instr) (a : State), (∃ i, Fetched.ofChoice c a = .run i s') ∨
      Fetched.ofChoice c a = .idle s' ∨ (∃ r, Fetched.ofChoice c a = .reserved r s') → s' = a := by
    intro c a h
    cases c <;> simp only [Fetched.ofChoice] at h <;> grind
  have run : ∀ (i : Instr) (a : State), (∃ j, Fetched.run i a = .run j s') ∨
      Fetched.run i a = .idle s' ∨ (∃ r, Fetched.run i a = .reserved r s') → s' = a := by
    intro i a h
    simp only [Fetched.run.injEq, reduceCtorEq, exists_false, or_false] at h
    exact h.choose_spec.2.symm
  have reserved : ∀ (r : Refusal) (a : State), (∃ j, Fetched.reserved r a = .run j s') ∨
      Fetched.reserved r a = .idle s' ∨ (∃ q, Fetched.reserved r a = .reserved q s') → s' = a := by
    intro r a h
    simp only [Fetched.reserved.injEq, reduceCtorEq, exists_false, false_or] at h
    exact h.choose_spec.2.symm
  unfold State.fetch at h
  split at h
  · simp only [reduceCtorEq, exists_false, Fetched.idle.injEq, or_false, false_or] at h
    subst h; simp
  · next t rest ha =>
    cases t with
    | host w i =>
      simp only [State.fetchTurn] at h
      split at h
      · have := run _ _ h; subst this; simp
      · have := reserved _ _ h; subst this; simp
    | operation w =>
      simp only [State.fetchTurn] at h
      split at h
      · have := run _ _ h; subst this; simp
      · have := reserved _ _ h; subst this; simp
    | worker => have := key _ _ h; subst this; simp
    | handler => have := key _ _ h; subst this; simp
    | tx u => have := run _ _ h; subst this; simp

end Sys2Proof.Machine
end

