-- ==== Sys2Proof/Laws/PerInstr.lean ====
section
/-! SUPPORT. A law of every operation as syntax: its encoding agrees with its row of the opcode table (match and mask). -/

namespace Sys2Proof.Laws

/-- The match and mask of the operation's row in spec/opcode_table.json (R107, R114, R102). -/
def tableRow : Instr → Nat × Nat
  | .setup _ _ => (0x1000000000000000, 0xFFFFFFFFFFFF0000)
  | .move _ _ _ => (0x2000000000000000, 0xF700FFFF00000000)
  | .start _ _ => (0x3000000000000000, 0xFFFF000000000000)
  | .stop _ => (0x4000000000000000, 0xFFFF0000FFFFFFFF)
  | .wkTake => (0x5, 0xF)
  | .encFirst _ => (0x6, 0xF)
  | .encCont _ => (0x7, 0xF)
  | .encEnd _ => (0x8, 0xF)
  | .wkNext => (0x9, 0xF)
  | .wkArm => (0xA, 0xF)
  | .txDesc _ => (0xB, 0xF)
  | .txEnd _ => (0xC, 0xF)
  | .hThr _ => (0xD, 0xF)
  | .hEnd _ => (0xE, 0xF)
  | .descEnd => (0x00000000, 0xFFFFFFFF)
  | .descStep _ _ => (0x00008000, 0x80008000)
  | .descLow _ _ => (0x00000000, 0x80008000)

/-- A word agrees with a match under a mask. -/
def agrees : InstrWord → Nat × Nat → Prop
  | .command w, (v, m) => w &&& BitVec.ofNat 64 m = BitVec.ofNat 64 v
  | .operation w, (v, m) => w &&& BitVec.ofNat 16 m = BitVec.ofNat 16 v
  | .descriptor w, (v, m) => w &&& BitVec.ofNat 32 m = BitVec.ofNat 32 v

/-- The operation's word agrees with its row of the opcode table. -/
def MatchesRow.Statement (i : Instr) : Prop := agrees (encode i) (tableRow i)

theorem agrees_operation (c : BitVec 4) (u : BitVec 8) : agrees (opWord c u) (c.toNat, 0xF) := by
  simp only [agrees, opWord]
  have h : BitVec.ofNat 16 c.toNat = c.setWidth 16 := by
    apply BitVec.eq_of_toNat_eq
    simp
  rw [h]
  apply BitVec.eq_of_getLsbD_eq
  intro i hi
  simp only [BitVec.getLsbD_and, BitVec.getLsbD_append, BitVec.getLsbD_setWidth, BitVec.getLsbD_ofNat]
  interval_cases i <;> simp <;> intro _ <;> decide

theorem MatchesRow.setup (s d : BitVec 8) : MatchesRow.Statement (.setup s d) := by
  simp only [MatchesRow.Statement, agrees, encode, tableRow]
  apply BitVec.eq_of_getLsbD_eq
  intro i hi
  simp only [BitVec.getLsbD_and, BitVec.getLsbD_append]
  interval_cases i <;> simp

theorem MatchesRow.move (u : BitVec 8) (d : Bool) (n : BitVec 32) : MatchesRow.Statement (.move u d n) := by
  simp only [MatchesRow.Statement, agrees, encode, tableRow]
  apply BitVec.eq_of_getLsbD_eq
  intro i hi
  simp only [BitVec.getLsbD_and, BitVec.getLsbD_append]
  interval_cases i <;> simp

theorem MatchesRow.start (m : Mask) (c : BitVec 32) : MatchesRow.Statement (.start m c) := by
  simp only [MatchesRow.Statement, agrees, encode, tableRow]
  apply BitVec.eq_of_getLsbD_eq
  intro i hi
  simp only [BitVec.getLsbD_and, BitVec.getLsbD_append]
  interval_cases i <;> simp

theorem MatchesRow.stop (m : Mask) : MatchesRow.Statement (.stop m) := by
  simp only [MatchesRow.Statement, agrees, encode, tableRow]
  apply BitVec.eq_of_getLsbD_eq
  intro i hi
  simp only [BitVec.getLsbD_and, BitVec.getLsbD_append]
  interval_cases i <;> simp

theorem MatchesRow.wkTake : MatchesRow.Statement .wkTake := agrees_operation 0x5 0
theorem MatchesRow.encFirst (u : BitVec 8) : MatchesRow.Statement (.encFirst u) := agrees_operation 0x6 u
theorem MatchesRow.encCont (u : BitVec 8) : MatchesRow.Statement (.encCont u) := agrees_operation 0x7 u
theorem MatchesRow.encEnd (u : BitVec 8) : MatchesRow.Statement (.encEnd u) := agrees_operation 0x8 u
theorem MatchesRow.wkNext : MatchesRow.Statement .wkNext := agrees_operation 0x9 0
theorem MatchesRow.wkArm : MatchesRow.Statement .wkArm := agrees_operation 0xA 0
theorem MatchesRow.txDesc (u : BitVec 8) : MatchesRow.Statement (.txDesc u) := agrees_operation 0xB u
theorem MatchesRow.txEnd (u : BitVec 8) : MatchesRow.Statement (.txEnd u) := agrees_operation 0xC u
theorem MatchesRow.hThr (u : BitVec 8) : MatchesRow.Statement (.hThr u) := agrees_operation 0xD u
theorem MatchesRow.hEnd (u : BitVec 8) : MatchesRow.Statement (.hEnd u) := agrees_operation 0xE u

theorem MatchesRow.descEnd : MatchesRow.Statement .descEnd := by
  simp [MatchesRow.Statement, agrees, encode, tableRow]

theorem agrees_descriptor (l : Bool) (a b : Dur) :
    agrees (.descriptor (desc l a false b)) ((BitVec.ofBool l).toNat * 0x8000, 0x80008000) := by
  simp only [agrees, desc]
  apply BitVec.eq_of_getLsbD_eq
  intro i hi
  simp only [BitVec.getLsbD_and, BitVec.getLsbD_append]
  cases l <;> interval_cases i <;> simp

theorem MatchesRow.descStep (a b : Dur) : MatchesRow.Statement (.descStep a b) := agrees_descriptor true a b
theorem MatchesRow.descLow (a b : Dur) : MatchesRow.Statement (.descLow a b) := agrees_descriptor false a b

end Sys2Proof.Laws
end

