-- ==== Sys2Proof/Tests/Slice0.lean ====
section
/-! SUPPORT. The model's own tests: ill-formed operations refused, words of the spec's tables decoded, single steps with the values of spec/95_test_vectors.md, and a state that meets the hypotheses of each statement. -/

namespace Sys2Proof.Tests

open Sys2Proof Sys2Proof.Machine

/-! ### Well-formedness: one ill-formed operation for each check -/

theorem test_wf_step_without_pulse : (Instr.descStep 0 990).wf = false := by decide
theorem test_wf_step_without_low : (Instr.descStep 10 0).wf = false := by decide
theorem test_wf_low_empty : (Instr.descLow 0 0).wf = false := by decide
theorem test_wf_low_uneven : (Instr.descLow 5 3).wf = false := by decide
theorem test_wf_low_larger_second : (Instr.descLow 5 6).wf = false := by decide
theorem test_wf_one_tick : (Instr.descLow 1 0).wf = true ∧ (Instr.descStep 1 1).wf = true := by decide

/-! ### Decoding: words of tables V-C and V-F, and the codes of R114 -/

theorem test_decode_setup : decodeTableWord 64 0x1000000000000D0C = some (.setup 12 13) := by decide
theorem test_decode_move : decodeTableWord 64 0x2001000000000014 = some (.move 1 false 20) := by decide
theorem test_decode_move_every_bit : decodeTableWord 64 0x28FF0000FFFFFFFF = some (.move 255 true 0xFFFFFFFF) := by decide
theorem test_decode_start : decodeTableWord 64 0x300000040000000A = some (.start 4 0xA) := by decide
theorem test_decode_stop : decodeTableWord 64 0x4000FFFF00000000 = some (.stop 0xFFFF) := by decide
theorem test_decode_reserved_commands :
    decodeTableWord 64 0 = none ∧ decodeTableWord 64 0x5000000000000000 = none ∧
    decodeTableWord 64 0x1000000000010504 = none ∧ decodeTableWord 64 0x2800000100000005 = none ∧
    decodeTableWord 64 0x4000000100000001 = none := by decide
theorem test_decode_wkTake : decodeTableWord 8 0x5 = some .wkTake := by decide
theorem test_decode_encFirst : decodeTableWord 16 0x0106 = some (.encFirst 1) := by decide
theorem test_decode_encCont : decodeTableWord 16 0x0207 = some (.encCont 2) := by decide
theorem test_decode_encEnd : decodeTableWord 8 0x8 = some (.encEnd 0) := by decide
theorem test_decode_wkNext : decodeTableWord 8 0x9 = some .wkNext := by decide
theorem test_decode_wkArm : decodeTableWord 8 0xA = some .wkArm := by decide
theorem test_decode_txDesc : decodeTableWord 16 0x010B = some (.txDesc 1) := by decide
theorem test_decode_txEnd : decodeTableWord 8 0xC = some (.txEnd 0) := by decide
theorem test_decode_hThr : decodeTableWord 16 0x0F0D = some (.hThr 15) := by decide
theorem test_decode_hEnd : decodeTableWord 8 0xE = some (.hEnd 0) := by decide
theorem test_decode_reserved_operations :
    decodeTableWord 8 0xF = none ∧ decodeTableWord 8 0x15 = none ∧ decodeTableWord 16 0x0105 = none := by decide
theorem test_decode_descEnd : decodeTableWord 32 0x00000000 = some .descEnd := by decide
theorem test_decode_descStep : decodeTableWord 32 0x03DE800A = some (.descStep 10 990) := by decide
theorem test_decode_descLow : decodeTableWord 32 0x0E1B0E1C = some (.descLow 3612 3611) := by decide
theorem test_decode_one_tick_is_no_marker : decodeTableWord 32 0x00000001 = some (.descLow 1 0) := by decide
theorem test_decode_high_second_phase : decodeTableWord 32 0x80070005 = none := by decide
theorem test_encode_words :
    encode (.setup 4 5) = .command 0x1000000000000504 ∧ encode (.move 0 true 200) = .command 0x28000000000000C8 ∧
    encode (.start 3 0xA) = .command 0x300000030000000A ∧ encode (.stop 1) = .command 0x4000000100000000 ∧
    encode (.descLow 32767 32766) = .descriptor 0x7FFE7FFF := by decide

/-! ### The states of the tests (the conventions of 95_test_vectors.md: NSTEP = 2, C = 8, W = 4, P = 10) -/

/-- The state an outcome answers. -/
def nextOf : Host.Outcome State Fault Refusal → Option State
  | .next t => some t
  | _ => none

/-- What an operation leaves, read by `f`. -/
def after {α : Type} (i : Instr) (s : State) (f : State → α) : Option α := (nextOf (exec i s)).map f

/-- A set-up unit. -/
def up : UnitState := { UnitState.reset with setup := true }

/-- Units 0 and 1 of a block whose worker exists. -/
def block (x y : UnitState) : State := { State.reset with units := [x, y], workerCreated := true }

/-- The worker filling unit 0. -/
def filling (x : UnitState) : State := { block x up with wkState := .fill, wkMask := 1, wkUnit := some 0 }

/-- The worker at unit 0 of its arm pass, the last of its mask. -/
def arming (x : UnitState) : State := { block x up with wkState := .armPass, wkMask := 1, wkUnit := some 0 }

/-- A unit with `n` steps to encode, whose oracle answers these samples. -/
def train (n : BitVec 32) (samples : List Nat) : UnitState :=
  { up with
    stepsRemaining := n
    motion := some { train := 1, v0 := .zero, vTarget := .zero, accel := .zero, jerk := .zero, samples := samples } }

/-- Eight distinct descriptors of one step each. -/
def steps8 : List Desc := [0x000B800A, 0x000C800A, 0x000D800A, 0x000E800A, 0x000F800A, 0x0010800A, 0x0011800A, 0x0012800A]

/-- A ring of eight written words. -/
def ring8 : Memory := Memory.writeMany [] 8 0 steps8

/-- A window of four written words. -/
def win4 : Memory := Memory.writeMany [] 4 0 (steps8.take 4)

/-- A running channel of a train in progress: half the window free, the threshold event pending (the first V-H row). -/
def running : UnitState :=
  { up with
    head := 7, tail := 4, ring := ring8, win := win4, armed := true, txRun := true, txPos := 2, txAvail := 2,
    thrPending := true, stepsRemaining := 3 }

/-- The same channel two fetches earlier. -/
def fresh : UnitState := { running with txPos := 0, txAvail := 4, thrPending := false }

/-- A START of this mask is in flight. -/
def inFlight (s : State) (m : Mask) : State :=
  { s with activeMask := m, activeCount := popcount m, waiterValid := true, waiterId := 0xA }

/-! ### Single steps -/

/-- V-U, second row: unit 1 is claimed and answered. -/
theorem test_setup_claims_unit_1 :
    after (.setup 12 13) { State.reset with units := [up, .reset] }
      (fun t => ((t.unit 1).setup, (t.unit 1).cfg.stepPin, (t.unit 1).cfg.dirPin, t.workerCreated, t.events)) =
    some (true, 12, 13, true, [.response 0x00000100]) := by decide

/-- V-U: the pins are tested before the slots. -/
theorem test_setup_invalid_pin_first :
    after (.setup 99 5) { block up up with side := { SideInputs.reset with pinValid := false } } (·.events) =
    some [.response 0x00000005] := by decide

/-- V-U, last row: a finished train leaves `armed` 1, a MOVE clears it. -/
theorem test_move_reloads_a_finished_unit :
    after (.move 0 false 7) (block { up with armed := true, head := 3, tail := 3, hwOffset := 3, dirOut := true } up)
      (fun t => ((t.unit 0).stepsRemaining, (t.unit 0).armed, (t.unit 0).head, (t.unit 0).dirOut, t.events)) =
    some (7, false, 0, true, [.response 0]) := by decide

/-- V-S2. -/
theorem test_start_records :
    after (.start 3 0xA) (block { up with direction := true } { up with dirOut := true })
      (fun t => ((t.unit 0).dirOut, (t.unit 1).dirOut, t.activeCount, t.waiterId, t.workerSig)) =
    some (true, false, 2, 0xA, 3) := by decide

/-- V-S9: only the active bit acts, and the last one wakes. -/
theorem test_stop_wakes_at_the_last :
    after (.stop 3) (inFlight (block up { up with txRun := true, stepOut := true }) 2)
      (fun t => (t.activeMask, (t.unit 1).txRun, (t.unit 1).stepOut, t.ctxSwitchReq, t.events)) =
    some (0, false, false, false, [.startDone 0xA 0, .response 0]) := by decide

/-- V-S8. -/
theorem test_partial_stop_keeps_the_waiter :
    after (.stop 1) (inFlight (block up up) 3) (fun t => (t.activeMask, t.activeCount, t.waiterValid, t.events)) =
    some (2, 1, true, [.response 0]) := by decide

/-- V-W, first row. -/
theorem test_wkTake :
    after .wkTake { block up up with workerSig := 6 } (fun t => (t.wkMask, t.workerSig, t.wkUnit, t.wkState)) =
    some (6, 0, some 1, .fill) := by decide

/-- V-W, third row, at unit 0 of mask 1: nothing above it, so the arm pass begins. -/
theorem test_wkNext_to_arm_pass :
    after .wkNext (filling { up with endEmitted := true }) (fun t => (t.wkState, t.wkUnit)) =
    some (.armPass, some 0) := by decide

/-- V-E, T = 1000. -/
theorem test_encFirst_1000 :
    after (.encFirst 0) (filling (train 3 [1000]))
      (fun t => (Memory.readWord (t.unit 0).ring 0, (t.unit 0).pendingTicks, (t.unit 0).stepsRemaining, (t.unit 0).motionCalls)) =
    some (some 0x03DE800A, 0, 2, 1) := by decide

/-- V-E, T = 10 with P = 10: a model-level fault, nothing pushed. -/
theorem test_encFirst_short :
    after (.encFirst 0) (filling (train 3 [10])) (fun t => (t.faults.encShort, (t.unit 0).head, t.workerDead)) =
    some (true, 0, true) := by decide

/-- V-E, the remainder 7223 of T = 40000. -/
theorem test_encCont_7223 :
    after (.encCont 0) (filling { train 2 [] with pendingTicks := 7223, head := 7, tail := 5 })
      (fun t => (Memory.readWord (t.unit 0).ring 7, (t.unit 0).head, (t.unit 0).pendingTicks, (t.unit 0).stepsRemaining)) =
    some (some 0x0E1B0E1C, 0, 0, 1) := by decide

/-- V-E, the remainder 65535: 32767/32767, one tick left, the step not yet counted. -/
theorem test_encCont_65535 :
    after (.encCont 0) (filling { train 2 [] with pendingTicks := 65535 })
      (fun t => (Memory.readWord (t.unit 0).ring 0, (t.unit 0).pendingTicks, (t.unit 0).stepsRemaining)) =
    some (some 0x7FFF7FFF, 1, 2) := by decide

/-- R135's example. -/
theorem test_encEnd :
    after (.encEnd 0) (filling { train 0 [] with head := 6, tail := 4 })
      (fun t => (Memory.readWord (t.unit 0).ring 6, (t.unit 0).head, (t.unit 0).endEmitted)) =
    some (some 0, 7, true) := by decide

/-- V-W, the full unit. -/
theorem test_wkArm_full :
    after .wkArm (arming { up with head := 7, ring := ring8 })
      (fun t => (Memory.readMany (t.unit 0).win 4 0 4, (t.unit 0).tail, (t.unit 0).hwOffset, (t.unit 0).armed, (t.unit 0).txAvail,
        t.wkState)) =
    some (some (steps8.take 4), 4, 0, true, 4, .wait) := by decide

/-- V-W, an armed unit is untouched. -/
theorem test_wkArm_armed :
    after .wkArm (arming { up with head := 7, ring := ring8, armed := true }) (fun t => ((t.unit 0).tail, (t.unit 0).txRun)) =
    some (0, false) := by decide

/-- V-T, third row: wrap and threshold. -/
theorem test_txDesc_wraps :
    after (.txDesc 0) (block { fresh with win := Memory.writeWord [] 3 0x7FFF7FFF, txPos := 3, txAvail := 2 } up)
      (fun t => ((t.unit 0).trace, (t.unit 0).txPos, (t.unit 0).txAvail, (t.unit 0).thrPending)) =
    some ([⟨false, 32767⟩, ⟨false, 32767⟩], 0, 1, true) := by decide

/-- R181: with a second phase of duration 0 the line rests at phase 0's level. -/
theorem test_txDesc_zero_second_phase :
    after (.txDesc 0) (block { fresh with win := Memory.writeWord [] 2 0x0000800A, txPos := 2, txAvail := 1 } up)
      (fun t => ((t.unit 0).stepOut, (t.unit 0).txPos, (t.unit 0).txAvail, (t.unit 0).txRun)) =
    some (true, 3, 0, true) := by decide

/-- V-T, fifth row. -/
theorem test_txEnd :
    after (.txEnd 0) (block { fresh with win := Memory.writeWord [] 2 0, txPos := 2, txAvail := 1, stepOut := true } up)
      (fun t => ((t.unit 0).txRun, (t.unit 0).endPending, (t.unit 0).stepOut, (t.unit 0).txPos, (t.unit 0).trace)) =
    some (false, true, false, 2, []) := by decide

/-- V-H, first row. -/
theorem test_hThr_half :
    after (.hThr 0) (block running up)
      (fun t => (Memory.readMany (t.unit 0).win 4 0 2, (t.unit 0).tail, (t.unit 0).hwOffset, (t.unit 0).txAvail,
        (t.unit 0).thrPending, t.workerSig)) =
    some (some [0x000F800A, 0x0010800A], 6, 2, 4, false, 1) := by decide

/-- V-H, third row: an empty ring, no signal. -/
theorem test_hThr_empty :
    after (.hThr 0) (block { running with tail := 7, hwOffset := 3, txAvail := 1 } up)
      (fun t => ((t.unit 0).tail, (t.unit 0).hwOffset, (t.unit 0).txAvail, (t.unit 0).thrPending, t.workerSig)) =
    some (7, 3, 1, false, 0) := by decide

/-- R52, R78: an unarmed unit's ring keeps its descriptors, only the latch is cleared (log 31). -/
theorem test_hThr_unarmed :
    after (.hThr 0) (block { running with armed := false, txRun := false } up)
      (fun t => ((t.unit 0).tail, (t.unit 0).txAvail, (t.unit 0).thrPending, t.workerSig)) =
    some (4, 2, false, 0) := by decide

/-- V-H, fifth row. -/
theorem test_hEnd_wakes :
    after (.hEnd 1) (inFlight (block up { up with endPending := true, txAvail := 1 }) 2)
      (fun t => (t.activeMask, t.waiterValid, t.ctxSwitchReq, (t.unit 1).txAvail, t.events)) =
    some (0, false, true, 0, [.startDone 0xA 0]) := by decide

/-- V-H, seventh row: a bit already clear. -/
theorem test_hEnd_of_a_stopped_unit :
    after (.hEnd 0) (inFlight (block { up with endPending := true } up) 2)
      (fun t => (t.activeMask, t.activeCount, t.waiterValid, t.ctxSwitchReq, (t.unit 0).endPending)) =
    some (2, 1, true, false, false) := by decide

/-- A descriptor run as an instruction is what the transmitter does with it (log 5). -/
theorem test_descStep :
    after (.descStep 10 990) (block fresh up) (fun t => ((t.unit 0).trace, (t.unit 0).txPos, (t.unit 0).stepOut)) =
    some ([⟨true, 10⟩, ⟨false, 990⟩], 1, false) := by decide
theorem test_descLow :
    after (.descLow 1 0) (block fresh up) (fun t => ((t.unit 0).trace, (t.unit 0).txAvail, (t.unit 0).txRun)) =
    some ([⟨false, 1⟩, ⟨false, 0⟩], 3, true) := by decide
theorem test_descEnd :
    after .descEnd (block fresh up) (fun t => ((t.unit 0).txRun, (t.unit 0).endPending)) = some (false, true) := by decide

/-- V-C, the last line. -/
theorem test_intSt : (block { up with thrPending := true } { up with endPending := true }).intSt = 0x00020001 := by decide

/-- V-N. -/
theorem test_boundary_conversions :
    ticksOfSeconds ⟨1, 1000⟩ ⟨50, 1⟩ = 20000 ∧ ticksOfSeconds ⟨124, 10000000⟩ ⟨50, 1⟩ = 248 ∧
    ticksOfSeconds ⟨1, 1000⟩ ⟨25, 2⟩ = 80000 ∧
    moveOfDistance 0 ⟨2, 1⟩ ⟨100, 1⟩ = some (.move 0 true 200) ∧
    moveOfDistance 1 ⟨-755, 1000⟩ ⟨100, 1⟩ = some (.move 1 false 75) := by decide

/-- V-D6: a SETUP with 100 steps per unit, then a call for a distance of 2.0 on the unit it claimed. -/
theorem test_moveCall_reads_the_unit :
    after (.setup 4 5) { State.reset with side := { SideInputs.reset with cfgSpu := ⟨100, 1⟩ } }
      (fun t => (t.moveCall 0 ⟨2, 1⟩, t.moveCall 1 ⟨2, 1⟩)) =
    some (some (.move 0 true 200), some (.move 1 true 0)) := by decide

/-- The table's rows run as the first step after reset. -/
theorem test_withFetchWord_runs_the_row :
    (nextOf (step (State.reset.withFetchWord 64 0x1000000000000504))).map (·.events) = some [.response 0] ∧
    (nextOf (step (State.reset.withFetchWord 32 0x03DE800A))).map (fun t => (t.unit 0).trace) =
      some [⟨true, 10⟩, ⟨false, 990⟩] ∧
    (nextOf (step (State.reset.withFetchWord 8 0xE))).map (·.agenda) = some [] := by decide

/-! ### Witnesses: for each statement with hypotheses, states and operands that meet them -/

/-- A mask below 2^n has no bit at n or above. -/
theorem no_bits {m : Mask} {n : Nat} (h : m.toNat < 2 ^ n) : MaskIn m n := by
  intro i hi
  rw [BitVec.getLsbD]
  exact Nat.testBit_lt_two_pow (Nat.lt_of_lt_of_le h (Nat.pow_le_pow_right (by omega) hi))

theorem names_none {m : Mask} {n : Nat} (h : m.toNat < 2 ^ n) : ¬ NamesNoUnit m n := by
  rintro ⟨i, hi, hb⟩
  rw [no_bits h i hi] at hb
  exact Bool.noConfusion hb

theorem no_next {m : Mask} {i : Nat} (h : m.toNat < 2 ^ (i + 1)) : NoNextBit m i := fun k hk => no_bits h k hk

/-- A START of unit 0 in flight, its train half way, a signal posted: the state of the witnesses about invariants. -/
def busy : State := { inFlight (block running up) 1 with workerSig := 1 }

theorem busy_sync : SyncInv busy := ⟨by decide, by decide⟩

theorem busy_worker : WorkerInv busy where
  nstepLe := by decide
  active := no_bits (by decide)
  signal := no_bits (by decide)
  taken := no_bits (by decide)
  serves := by decide
  served := by intro u h; cases h
  created := fun _ _ => rfl

theorem running_unit : UnitInv Params.reset running where
  pointers := ⟨by decide, by decide, by decide, by decide, by decide⟩
  occupancy := by unfold Occupancy; decide
  refillAt := by decide
  runsArmed := by decide
  ringWritten := by decide
  winWritten := by decide
  pending := by decide
  endLast := by decide

theorem up_unit : UnitInv Params.reset up where
  pointers := ⟨by decide, by decide, by decide, by decide, by decide⟩
  occupancy := by unfold Occupancy; decide
  refillAt := by decide
  runsArmed := by decide
  ringWritten := by decide
  winWritten := by decide
  pending := by decide
  endLast := by decide

theorem busy_channel : ChannelInv busy where
  params := by decide
  units := by
    intro u hu
    have hu' : u < 2 := hu
    interval_cases u
    · exact running_unit
    · exact up_unit

theorem busy_memory : MemoryInv busy := by
  intro u hu
  have hu' : u < 2 := hu
  interval_cases u <;> refine ⟨⟨?_, ?_⟩, ⟨?_, ?_⟩⟩ <;> decide

theorem witness_DecodeOfEncode :
    (Instr.descLow 1 0).wf = true ∧ (Instr.descLow 32767 32767).wf = true ∧ (Instr.descStep 1 32767).wf = true ∧
    (Instr.move 255 true 0xFFFFFFFF).wf = true := by decide

theorem witness_EncodeOfDecode :
    decode (.command 0x28FF0000FFFFFFFF) = .ok (.move 255 true 0xFFFFFFFF) ∧
    decode (.operation 0xFF0E) = .ok (.hEnd 255) ∧ decode (.descriptor 1) = .ok (.descLow 1 0) := ⟨rfl, rfl, rfl⟩

/-- A state with one turn left. -/
def withTurn (s : State) (t : Turn) : State := { s with agenda := [t] }

theorem witness_StepRuns_command :
    (withTurn busy (.host 0x4000000100000000 .reset)).paramsOk = true ∧ busy.refused = none ∧
    decode (.command 0x4000000100000000) = .ok (.stop 1) := ⟨by decide, rfl, rfl⟩
theorem witness_StepRuns_operation :
    (withTurn busy (.operation 0x000D)).paramsOk = true ∧ decode (.operation 0x000D) = .ok (.hThr 0) := ⟨by decide, rfl⟩
theorem witness_StepRuns_transmitter :
    (withTurn busy (.tx 0)).paramsOk = true ∧ (withTurn busy (.tx 0)).txReady 0 = true ∧
    (withTurn busy (.tx 0)).fetchWord 0 = some 0x000D800A ∧ decode (.descriptor 0x000D800A) = .ok (.descStep 10 13) :=
  ⟨by decide, by decide, by decide, rfl⟩

theorem witness_StepRuns_worker :
    (withTurn busy .worker).paramsOk = true ∧ (withTurn busy .worker).workerChoice = some .wkTake ∧
    (withTurn State.reset .worker).workerChoice = none := by decide
theorem witness_StepRuns_handler :
    (withTurn busy .handler).handlerChoice = some (.hThr 0) ∧ (withTurn State.reset .handler).handlerChoice = none := by
  decide
theorem witness_StepRuns_no_class :
    (withTurn (block { running with win := Memory.writeWord [] 2 0x80070005 } up) (.tx 0)).txReady 0 = true ∧
    (withTurn (block { running with win := Memory.writeWord [] 2 0x80070005 } up) (.tx 0)).fetchWord 0 = some 0x80070005 ∧
    decode (.descriptor 0x80070005) = .error .reservedDescriptor := ⟨by decide, by decide, rfl⟩
theorem witness_StepRuns_nothing_to_fetch :
    ((withTurn (block { running with win := [] } up) (.tx 0)).txReady 0 = true ∧
      (withTurn (block { running with win := [] } up) (.tx 0)).fetchWord 0 = none) ∧
    (withTurn State.reset (.tx 0)).txReady 0 = false ∧ State.reset.agenda = [] := by decide

/-- A command word matches no row of R107. -/
def matchesNoRow (w : CmdWord) : Bool :=
  decide (w &&& 0xFFFFFFFFFFFF0000#64 ≠ 0x1000000000000000#64) && decide (w &&& 0xF700FFFF00000000#64 ≠ 0x2000000000000000#64) &&
  decide (w &&& 0xFFFF000000000000#64 ≠ 0x3000000000000000#64) && decide (w &&& 0xFFFF0000FFFFFFFF#64 ≠ 0x4000000000000000#64)

theorem witness_ReservedCommand :
    matchesNoRow 0x5000000000000000 = true ∧ matchesNoRow 0x1000000000010504 = true ∧ matchesNoRow 0 = true ∧
    (withTurn busy (.host 0 .reset)).paramsOk = true := by decide

theorem witness_ReservedOperation :
    (withTurn busy (.operation 0x000F)).paramsOk = true ∧ decode (.operation 0x000F) = .error .reservedOperation ∧
    decode (.operation 0x0105) = .error .reservedOperation := ⟨by decide, rfl, rfl⟩

theorem witness_RefusedRun :
    ({ busy with params := { Params.reset with half := 4 } } : State).paramsOk = false ∧
    ({ busy with params := { Params.reset with half := 3 } } : State).paramsOk = true ∧
    ({ busy with refused := some .emptyStart } : State).refused = some .emptyStart := by decide

/-- Every model-level fault met, nothing refused. -/
def faulted : State := { busy with faults := ⟨true, true, true⟩ }

theorem witness_ParametersStay :
    (∃ t, step faulted = .next t) ∧ faulted.faults.encShort = true ∧ faulted.faults.tickOverflow = true ∧
    faulted.faults.badDescriptor = true := ⟨⟨_, rfl⟩, rfl, rfl, rfl⟩

/-- A run marked refused. -/
def marked : State := { busy with refused := some .busyMove }

theorem witness_RefusedMarkStays :
    (∃ r, exec (.stop 1) marked = .next r) ∧ (∃ r, exec (.start 0 0xB) marked = .next r) ∧ marked.refused ≠ none :=
  ⟨⟨_, rfl⟩, ⟨_, rfl⟩, by decide⟩

/-- Unit 0 set up, unit 1 free, with these answers of the environment. -/
def half (alloc : Bool) (lock conf : Option (BitVec 16)) : State :=
  { block up .reset with side := { SideInputs.reset with allocOk := alloc, pinlock := lock, configure := conf } }

theorem witness_Setup_errors_before_a_slot :
    ({ State.reset with side := { SideInputs.reset with pinValid := false } } : State).side.pinValid = false ∧
    (block up up).side.pinValid = true ∧ (∀ u, u < (block up up).nstep → ((block up up).unit u).setup = true) := by decide
theorem witness_Setup_lowest_free (a : Bool) (l c : Option (BitVec 16)) : IsLowestFree (half a l c) 1 := by
  unfold IsLowestFree
  exact ⟨Nat.lt_succ_self 1, rfl, by intro v hv; interval_cases v; rfl⟩
theorem witness_Setup_lowest_free_at_reset : IsLowestFree State.reset 0 := by unfold IsLowestFree; decide
theorem witness_Setup_answers :
    (half false none none).side.allocOk = false ∧
    ((half true (some 0x0107) none).side.allocOk = true ∧ (half true (some 0x0107) none).side.pinlock = some 0x0107) ∧
    ((half true none (some 1)).side.pinlock = none ∧ (half true none (some 1)).side.configure = some 1) ∧
    ((half true none none).side.allocOk = true ∧ (half true none none).side.pinlock = none ∧
      (half true none none).side.configure = none) := by decide

theorem witness_Move :
    (block up .reset).nstep ≤ (2 : BitVec 8).toNat ∧ (block up .reset).nstep ≤ (255 : BitVec 8).toNat ∧
    ((1 : BitVec 8).toNat < (block up .reset).nstep ∧ ((block up .reset).unit 1).setup = false) ∧
    ((1 : BitVec 8).toNat < (block up up).nstep ∧ ((block up up).unit 1).setup = true ∧ (block up up).fullyIdle 1 = true) := by
  decide

theorem witness_MoveBusy :
    (inFlight (block up up) 2).activeMask.getLsbD 1 = true ∧ ((block fresh up).unit 0).txRun = true ∧
    ((filling up).wkState ≠ .wait ∧ (filling up).wkMask.getLsbD 0 = true) ∧ busy.workerSig.getLsbD 0 = true := by decide

theorem witness_Start_beyond : NamesNoUnit 4 (block up up).nstep ∧ NamesNoUnit 0x8000 (block up up).nstep :=
  ⟨⟨2, by decide, by decide⟩, ⟨15, by decide, by decide⟩⟩
theorem witness_Start_not_setup :
    (2 : Mask) ≠ 0 ∧ ¬ NamesNoUnit 2 (block up .reset).nstep ∧ (block up .reset).waiterValid = false ∧
    (block up .reset).activeCount = 0 ∧ ∃ u, (2 : Mask).getLsbD u = true ∧ ((block up .reset).unit u).setup = false :=
  ⟨by decide, names_none (by decide), rfl, rfl, 1, by decide, by decide⟩
theorem witness_Start_accepted :
    (3 : Mask) ≠ 0 ∧ ¬ NamesNoUnit 3 (block up up).nstep ∧ (block up up).waiterValid = false ∧
    (block up up).activeCount = 0 ∧ ∀ u, (3 : Mask).getLsbD u = true → ((block up up).unit u).setup = true := by
  refine ⟨by decide, names_none (by decide), rfl, rfl, ?_⟩
  intro u hu
  have hlt : u < 2 := by
    by_contra hc
    rw [no_bits (m := 3) (n := 2) (by decide) u (by omega)] at hu
    exact Bool.noConfusion hu
  interval_cases u <;> rfl
theorem witness_Start_second : ¬ NamesNoUnit 3 busy.nstep ∧ busy.waiterValid = true := ⟨names_none (by decide), rfl⟩

theorem witness_Stop_last :
    SyncInv (inFlight (block up up) 2) ∧ MaskIn (2 : Mask) 2 ∧ (inFlight (block up up) 2).activeMask ≠ 0 ∧
    (inFlight (block up up) 2).activeMask &&& ~~~ (3 : Mask) = 0 := ⟨⟨by decide, by decide⟩, no_bits (by decide), by decide, by decide⟩
theorem witness_Stop_partial :
    SyncInv (inFlight (block up up) 3) ∧ MaskIn (3 : Mask) 2 ∧ (inFlight (block up up) 3).activeMask &&& ~~~ (1 : Mask) ≠ 0 :=
  ⟨⟨by decide, by decide⟩, no_bits (by decide), by decide⟩
theorem witness_Stop_idle :
    SyncInv (block up up) ∧ MaskIn (block up up).activeMask 2 ∧ (block up up).activeMask = 0 :=
  ⟨⟨by decide, by decide⟩, no_bits (by decide), rfl⟩

theorem witness_WkTake :
    busy.workerLive = true ∧ busy.wkState = .wait ∧ IsLowBit busy.workerSig 0 ∧ IsLowBit 6 1 ∧ IsLowBit 0x8000 15 :=
  ⟨by decide, rfl, ⟨by decide, by decide⟩, ⟨by decide, by decide⟩, ⟨by decide, by decide⟩⟩

/-- A full ring; a drained train. -/
def fullUnit : UnitState := { up with head := 7 }
def drainedUnit : UnitState := { up with endEmitted := true }

theorem witness_WkNext :
    (filling up).workerLive = true ∧ (filling up).wkState = .fill ∧ (filling up).wkUnit = some 0 ∧
    ((filling .reset).unit 0).setup = false ∧ (filling fullUnit).full 0 = true ∧ (filling drainedUnit).drained 0 = true ∧
    IsNextBit 3 0 1 ∧ (NoNextBit (filling up).wkMask 0 ∧ IsLowBit (filling up).wkMask 0) :=
  ⟨by decide, rfl, rfl, rfl, by decide, by decide, ⟨by decide, by decide, by omega⟩,
    no_next (by decide), by decide, by decide⟩

theorem witness_FillSteps :
    (filling up).workerLive = true ∧ ((filling up).unit 0).setup = true ∧
    (filling { up with pendingTicks := 5, stepsRemaining := 3 }).full 0 = false ∧
    (filling (train 3 [])).full 0 = false ∧ ((filling (train 3 [])).unit 0).stepsRemaining ≠ 0 ∧
    (filling up).full 0 = false ∧ ((filling up).unit 0).endEmitted = false ∧
    (filling fullUnit).full 0 = true ∧ (filling drainedUnit).drained 0 = true := by decide

/-- Samples at the edges of the three cases: P + 1, P + 32767, P + 32768, 2^32 - 1, P, 2^32. -/
theorem witness_EncFirst :
    (filling (train 1 [11])).canEncFirst 0 = true ∧ ((filling (train 1 [11])).unit 0).nextSample = 11 ∧
    ((filling (train 1 [32777])).unit 0).nextSample = 32777 ∧ ((filling (train 1 [32778])).unit 0).nextSample = 32778 ∧
    ((filling (train 1 [4294967295])).unit 0).nextSample < 2 ^ 32 ∧
    ((filling (train 1 [10])).unit 0).nextSample ≤ Params.reset.pulse ∧
    2 ^ 32 ≤ ((filling (train 1 [4294967296])).unit 0).nextSample := by decide

theorem witness_EncCont :
    (filling { train 1 [] with pendingTicks := 1 }).canEncCont 0 = true ∧
    ((filling { train 1 [] with pendingTicks := 65533 }).unit 0).pendingTicks.toNat = 65533 ∧
    (filling { train 1 [] with pendingTicks := 65534 }).canEncCont 0 = true ∧
    ((filling { train 1 [] with pendingTicks := 65534 }).unit 0).pendingTicks.toNat = 65534 := by decide

theorem witness_EncEnd : (filling up).canEncEnd 0 = true := by decide

theorem witness_EncoderFrame : ∃ t, exec (.encFirst 0) (filling (train 1 [11])) = .next t := ⟨_, rfl⟩

theorem witness_WkArm_ready :
    (arming { up with head := 7, ring := ring8 }).paramsOk = true ∧
    (arming { up with head := 7, ring := ring8 }).workerLive = true ∧
    (arming { up with head := 7, ring := ring8 }).enough 0 = true ∧
    (arming { up with head := 7, ring := ring8 }).ringOldest 0 4 = some (steps8.take 4) ∧
    (arming { up with head := 1, ring := ring8, endEmitted := true }).ringOldest 0 1 = some (steps8.take 1) ∧
    (arming { up with head := 1, ring := ring8, endEmitted := true }).enough 0 = true := by decide
theorem witness_WkArm_not_ready :
    ((arming .reset).unit 0).setup = false ∧ ((arming { up with armed := true }).unit 0).armed = true ∧
    (arming { up with head := 5 }).enough 0 = false ∧ NoNextBit (arming up).wkMask 0 ∧ IsNextBit 3 0 1 :=
  ⟨rfl, rfl, by decide, no_next (by decide), by decide, by decide, by omega⟩

theorem witness_Armed :
    ((arming { up with armed := true }).unit 0).armed = true ∧ (∃ t, exec .wkArm (arming { up with armed := true }) = .next t) ∧
    (nextOf (exec (.move 0 true 1) (block { up with armed := true } up))).map (fun t => (t.unit 0).armed) = some false :=
  ⟨rfl, ⟨_, rfl⟩, by decide⟩

/-- A running channel about to fetch `w` at slot 1, the last before a half boundary. -/
def fetching (w : Desc) : State := block { fresh with win := Memory.writeWord [] 1 w, txPos := 1, txAvail := 3 } up

theorem witness_TxDesc :
    (fetching 0x80070005).txReady 0 = true ∧ (fetching 0x80070005).fetchWord 0 = some 0x80070005 ∧
    (field (0x80070005 : Desc) 0 15 ≠ 0 ∨ field (0x80070005 : Desc) 16 15 ≠ 0) ∧
    (fetching 1).fetchWord 0 = some 1 ∧ field (1 : Desc) 0 15 ≠ 0 ∧ field (0x00010000 : Desc) 16 15 ≠ 0 := by decide
theorem witness_BadDescriptor :
    (fetching 0x00008000).txReady 0 = true ∧ (fetching 0x00008000).fetchWord 0 = some 0x00008000 ∧
    (fetching 0x80000000).fetchWord 0 = some 0x80000000 ∧ (fetching 0x80008000).fetchWord 0 = some 0x80008000 := by decide
theorem witness_TxEnd : (fetching 0).txReady 0 = true ∧ (fetching 0).fetchWord 0 = some 0 := by decide
theorem witness_DescriptorClasses :
    (fetching 1).txReady (fetching 1).txSel.toNat = true ∧ ((1 : Dur) ≠ 0 ∨ (0 : Dur) ≠ 0) ∧
    encode (.descLow 1 0) = .descriptor 1 ∧ (fetching 1).fetchWord (fetching 1).txSel.toNat = some 1 := by decide

/-- A stalled channel of an active unit. -/
def stalledState : State := inFlight (block { fresh with txPos := 1, txAvail := 0, hwOffset := 1 } up) 1

theorem witness_Stall :
    stalledState.stalled 0 ∧ (stalledState.unit 0).thrPending = false ∧ (stalledState.unit 0).endPending = false ∧
    (stalledState.unit 0).armed = true ∧ (∃ t, exec (.stop 1) stalledState = .next t) ∧
    ∃ t, exec (.hThr 0) stalledState = .next t := ⟨⟨rfl, rfl⟩, rfl, rfl, rfl, ⟨_, rfl⟩, ⟨_, rfl⟩⟩

theorem witness_Disabled :
    State.reset.canTake = false ∧ State.reset.canEncFirst 0 = false ∧ State.reset.canEncCont 0 = false ∧
    State.reset.canEncEnd 0 = false ∧ State.reset.txReady 0 = false ∧ (fetching 0).fetchWord 0 = some 0 ∧
    ((fetching 1).fetchWord 0 = some 1 ∧ (1 : Desc) ≠ 0) ∧ (State.reset.unit 0).thrPending = false ∧
    (State.reset.unit 0).endPending = false := by decide
theorem witness_Disabled_worker : (∀ v, State.reset.canNext v = false) ∧ ∀ v, State.reset.canArmPass v = false :=
  ⟨fun _ => rfl, fun _ => rfl⟩

theorem witness_HThr :
    busy.paramsOk = true ∧ (busy.unit 0).thrPending = true ∧ (busy.unit 0).armed = true ∧
    busy.ringOldest 0 (min busy.params.half (busy.count 0)) = some [0x000F800A, 0x0010800A] ∧
    (block { running with tail := 7 } up).ringOldest 0 0 = some [] ∧
    (block { running with tail := 6 } up).ringOldest 0 1 = some [0x0011800A] := by decide

theorem witness_HThr_unarmed :
    ((block { running with armed := false, txRun := false } up).unit 0).thrPending = true ∧
    ((block { running with armed := false, txRun := false } up).unit 0).armed = false := by decide

/-- Unit 0's completion is latched, with this mask active. -/
def completing (m : Mask) : State := inFlight (block { up with endPending := true } up) m

theorem witness_HEnd :
    (SyncInv (completing 2) ∧ ((completing 2).unit 0).endPending = true ∧ (completing 2).activeMask.getLsbD 0 = false) ∧
    (SyncInv (completing 3) ∧ (completing 3).activeMask.getLsbD 0 = true ∧ 1 < (completing 3).activeCount) ∧
    (SyncInv (completing 1) ∧ (completing 1).activeMask.getLsbD 0 = true ∧ (completing 1).activeCount = 1) :=
  ⟨⟨⟨by decide, by decide⟩, rfl, by decide⟩, ⟨⟨by decide, by decide⟩, by decide, by decide⟩,
    ⟨⟨by decide, by decide⟩, by decide, by decide⟩⟩

theorem witness_BothEvents :
    ((block { running with endPending := true } up).unit 0).thrPending = true ∧
    ((block { running with endPending := true } up).unit 0).endPending = true ∧
    ∃ t1 t2 r, exec (.hThr 0) (block { running with endPending := true } up) = .next t1 ∧ exec (.hEnd 0) t1 = .next t2 ∧
      exec (.hEnd 0) (block { running with endPending := true } up) = .next r := ⟨rfl, rfl, _, _, _, rfl, rfl, rfl⟩

theorem witness_IntSt : (block up up).nstep ≤ 16 ∧ 1 < (block up up).nstep ∧ (block up up).nstep ≤ 15 := by decide
theorem witness_Handler :
    State.reset.irq = false ∧ (busy.unit 0).thrPending = true ∧
    ((block up { up with endPending := true }).unit 1).endPending = true ∧
    (∀ v, v < 1 → ((block up { up with endPending := true }).unit v).thrPending = false ∧
      ((block up { up with endPending := true }).unit v).endPending = false) := by decide

theorem witness_Interval :
    (1 ≤ 10 ∧ 10 ≤ 32767 ∧ 10 < 11) ∧ (1 ≤ 32767 ∧ 32767 ≤ 32767 ∧ 32767 < 32768) ∧ (1 ≤ 1 ∧ 1 ≤ 32767 ∧ 1 < 2) := by decide
/-- A block whose units move one step per unit of distance. -/
def perUnit : State := block up { up with cfg := { UnitCfg.reset with stepsPerUnit := ⟨1, 1⟩ } }

theorem witness_Boundary :
    (perUnit.unit 1).cfg.stepsPerUnit = ⟨1, 1⟩ ∧ 0 < (⟨1, 1⟩ : Ratio).den ∧ 0 < (⟨1, 1⟩ : Ratio).num ∧
    stepsOfDistance ⟨4294967295, 1⟩ ⟨1, 1⟩ < 2 ^ 32 ∧ perUnit.moveCall 1 ⟨-4294967295, 1⟩ = some (.move 1 false 0xFFFFFFFF) ∧
    2 ^ 32 ≤ stepsOfDistance ⟨4294967296, 1⟩ ⟨1, 1⟩ ∧ perUnit.moveCall 1 ⟨4294967296, 1⟩ = none := by decide
theorem witness_SampleTicks :
    0 ≤ (⟨0, 1⟩ : Ratio).num ∧ 0 < (⟨0, 1⟩ : Ratio).den ∧ perUnit.params.nanosPerTick.isPos = true ∧
    perUnit.sampleTicks ⟨0, 1⟩ = 0 ∧ perUnit.sampleTicks ⟨1, 1000⟩ = 20000 := by decide

theorem witness_Reset : Params.reset.ok 2 = true ∧ Params.reset.ok 1 = true ∧ Params.reset.ok 16 = true := by decide

/-- The turns of the witnesses for the invariants: an agent's step, and a command. -/
theorem witness_steps :
    (∃ t, step (withTurn busy .worker) = .next t) ∧ (∃ t, step (withTurn busy .handler) = .next t) ∧
    (∃ t, step (withTurn busy (.tx 0)) = .next t) ∧
    ∃ t, step (withTurn busy (.host 0x4000000100000000 .reset)) = .next t := ⟨⟨_, rfl⟩, ⟨_, rfl⟩, ⟨_, rfl⟩, ⟨_, rfl⟩⟩
theorem witness_SyncInv : SyncInv (withTurn busy .handler) := ⟨busy_sync.count, busy_sync.waiter⟩
theorem witness_WorkerInv : WorkerInv (withTurn busy .worker) :=
  ⟨busy_worker.nstepLe, busy_worker.active, busy_worker.signal, busy_worker.taken, busy_worker.serves, busy_worker.served,
    busy_worker.created⟩
theorem witness_ChannelInv : ChannelInv (withTurn busy (.tx 0)) := ⟨busy_channel.params, busy_channel.units⟩
theorem witness_MemoryInv : MemoryInv (withTurn busy .handler) := busy_memory

theorem witness_Owners :
    (∃ t, exec (.hThr 0) busy = .next t) ∧ (busy.unit 0).setup = true ∧
    after (.hThr 0) busy (fun t => decide ((t.unit 0).tail ≠ (busy.unit 0).tail ∧ (t.unit 0).win ≠ (busy.unit 0).win)) =
      some true := ⟨⟨_, rfl⟩, rfl, by decide⟩

theorem witness_WorkerOnly :
    isWorkers .wkArm = true ∧ (∃ t, exec .wkArm (arming { up with head := 7, ring := ring8 }) = .next t) ∧
    exec .wkArm (arming fullUnit) = .fault .unwrittenWord := ⟨rfl, ⟨_, rfl⟩, rfl⟩

theorem witness_Signals :
    (∃ t, exec (.start 3 0xA) (block up up) = .next t ∧ t.workerSig ≠ (block up up).workerSig ∧ t.waiterValid = true) ∧
    (block up up).waiterValid = false ∧ (∃ t, exec (.hThr 0) busy = .next t) ∧ (busy.unit 0).armed = true ∧ busy.count 0 ≠ 0 :=
  ⟨⟨_, rfl, by decide, rfl⟩, rfl, ⟨_, rfl⟩, rfl, by decide⟩

theorem witness_StartDone :
    SyncInv (completing 1) ∧ (∃ t, exec (.hEnd 0) (completing 1) = .next t ∧
      .startDone 0xA 0 ∈ t.events.drop (completing 1).events.length ∧ t.activeMask.getLsbD 0 = false) ∧
    (completing 1).activeMask.getLsbD 0 = true := ⟨⟨by decide, by decide⟩, ⟨_, rfl, by decide, by decide⟩, by decide⟩

theorem witness_Ring :
    ChannelInv busy ∧ 0 < busy.nstep ∧ busy.ringContents 0 = some [0x000F800A, 0x0010800A, 0x0011800A] ∧
    ∃ t, exec (.hThr 0) busy = .next t := ⟨busy_channel, by decide, by decide, ⟨_, rfl⟩⟩

theorem witness_Pulses :
    ChannelInv busy ∧ (∃ t, exec (.txDesc 0) busy = .next t) ∧ busy.pulseTotal 0 = some 8 ∧
    ¬ IsMoveOf (.txDesc 0) 0 ∧ ¬ MayHalt (.txDesc 0) 0 ∧ (∀ v, Instr.txDesc 0 = .txEnd v → v.toNat ≠ 0) ∧
    ¬ IsThresholdOf (.txDesc 0) 0 ∧ ∀ w, encode (.txDesc 0) ≠ .descriptor w :=
  ⟨busy_channel, ⟨_, rfl⟩, by decide, (by rintro ⟨_, _, _, h, _⟩; cases h),
    (by rintro (⟨_, h, _⟩ | ⟨_, h, _⟩) <;> cases h), (fun _ h => by cases h),
    (by rintro ⟨_, h, _⟩; cases h), fun _ h => by cases h⟩
/-- The word a transmitter's turn runs on `busy`, as the operation step makes of it. -/
theorem witness_Pulses_fetched :
    busy.txSel.toNat = 0 ∧ busy.txChoice 0 = .descStep 10 13 ∧ (∃ t, exec (.descStep 10 13) busy = .next t) ∧
    encode (.descStep 10 13) = .descriptor 0x000D800A ∧ (0x000D800A : Desc) ≠ 0 ∧ busy.fetchWord 0 = some 0x000D800A ∧
    ¬ IsMoveOf (.descStep 10 13) 0 ∧ ¬ MayHalt (.descStep 10 13) 0 :=
  ⟨by decide, by decide, ⟨_, rfl⟩, by decide, by decide, by decide, (by rintro ⟨_, _, _, h, _⟩; cases h),
    (by rintro (⟨_, h, _⟩ | ⟨_, h, _⟩) <;> cases h)⟩
theorem witness_Pulses_threshold :
    (busy.unit 0).armed = true ∧ (busy.unit 0).txRun = true ∧ ∃ t, exec (.hThr 0) busy = .next t := ⟨rfl, rfl, _, rfl⟩

theorem witness_Service : WorkerInv busy ∧ ChannelInv busy ∧ busy.refused = none ∧ busy.canTake = true :=
  ⟨busy_worker, busy_channel, rfl, by decide⟩

end Sys2Proof.Tests
end

section
/-! What a step runs: the reasoning rules of the fetch, one per kind of turn, and the statement they add up to (O5). -/

namespace Sys2Proof.Machine

variable {s t : State} {rest : List Turn} {i : Instr} {u : BitVec 8} {w : Desc}

/-! ### A step is its fetch -/

/-- The state a turn is fetched on: the turn is off the agenda and the pulse of the step before is over. -/
def State.turnTaken (s : State) (rest : List Turn) : State := { s.beginStep with agenda := rest }

theorem fetch_of_empty_agenda (h : s.agenda = []) : s.fetch = .idle s.beginStep := by
  rw [State.fetch, h]

theorem fetch_of_turn {turn : Turn} (h : s.agenda = turn :: rest) : s.fetch = (s.turnTaken rest).fetchTurn turn := by
  rw [State.fetch, h]; rfl

theorem step_of_fetch_run (hs : s.steps) (h : s.fetch = .run i t) : step s = exec i t := by
  obtain ⟨hp, hr⟩ := hs
  simp [step, hp, hr, h]

theorem step_of_fetch_idle (hs : s.steps) (h : s.fetch = .idle t) : step s = .next t := by
  obtain ⟨hp, hr⟩ := hs
  simp [step, hp, hr, h, waits]

/-! ### Taking the turn changes nothing an agent chooses by -/

@[simp] theorem State.workerChoice_turnTaken : (s.turnTaken rest).workerChoice = s.workerChoice := rfl

@[simp] theorem State.handlerChoice_turnTaken : (s.turnTaken rest).handlerChoice = s.handlerChoice := rfl

@[simp] theorem State.txChoice_turnTaken : (s.turnTaken rest).txChoice u = s.txChoice u := rfl

/-! ### What each turn comes to -/

theorem fetchTurn_host {c : CmdWord} {side : SideInputs} (h : decode (.command c) = .ok i) :
    s.fetchTurn (.host c side) = .run i { s with side := side } := by
  rw [decode] at h
  simp [State.fetchTurn, h]

theorem fetchTurn_operation {o : OpWord} (h : decode (.operation o) = .ok i) :
    s.fetchTurn (.operation o) = .run i s := by
  rw [decode] at h
  simp [State.fetchTurn, h]

theorem fetchTurn_worker : s.fetchTurn .worker = .ofChoice s.workerChoice s := rfl

theorem fetchTurn_handler : s.fetchTurn .handler = .ofChoice s.handlerChoice s := rfl

theorem fetchTurn_tx : s.fetchTurn (.tx u) = .run (s.txChoice u) { s with txSel := u } := rfl

/-! ### The transmitter's choice, and TX_DESC where there is no word to output -/

theorem txChoice_of_class (hr : s.txReady u.toNat = true) (hw : s.fetchWord u.toNat = some w)
    (hd : decode (.descriptor w) = .ok i) : s.txChoice u = i := by
  rw [decode] at hd
  simp [State.txChoice, hr, hw, hd]

theorem txChoice_of_no_class {e : DecodeError} (hr : s.txReady u.toNat = true) (hw : s.fetchWord u.toNat = some w)
    (hd : decode (.descriptor w) = .error e) : s.txChoice u = .txDesc u := by
  rw [decode] at hd
  simp [State.txChoice, hr, hw, hd]

theorem txChoice_of_unwritten (hw : s.fetchWord u.toNat = none) : s.txChoice u = .txDesc u := by
  simp [State.txChoice, hw]

theorem txChoice_of_not_ready (hr : s.txReady u.toNat = false) : s.txChoice u = .txDesc u := by
  simp [State.txChoice, hr]

theorem exec_txDesc_of_unwritten (hr : s.txReady u.toNat = true) (hw : s.fetchWord u.toNat = none) :
    exec (.txDesc u) s = .fault .unwrittenWord := by
  simp [exec, execTxDesc, hr, hw]

theorem exec_txDesc_of_not_ready (hr : s.txReady u.toNat = false) : exec (.txDesc u) s = .next s := by
  simp [exec, execTxDesc, hr, waits]

/-! ### The step of each turn -/

/-- An agent that makes a choice runs it, on the worker's turn as on the handler's. -/
theorem step_of_choice {c : Option Instr} (hs : s.steps) (hf : s.fetch = .ofChoice c t) (hc : c = some i) :
    step s = exec i t :=
  step_of_fetch_run hs (by rw [hf, hc]; rfl)

theorem step_of_no_choice {c : Option Instr} (hs : s.steps) (hf : s.fetch = .ofChoice c t) (hc : c = none) :
    step s = .next t :=
  step_of_fetch_idle hs (by rw [hf, hc]; rfl)

theorem fetch_worker (h : s.agenda = .worker :: rest) :
    s.fetch = .ofChoice s.workerChoice (s.turnTaken rest) := by
  rw [fetch_of_turn h, fetchTurn_worker, State.workerChoice_turnTaken]

theorem fetch_handler (h : s.agenda = .handler :: rest) :
    s.fetch = .ofChoice s.handlerChoice (s.turnTaken rest) := by
  rw [fetch_of_turn h, fetchTurn_handler, State.handlerChoice_turnTaken]

/-- A transmitter's turn runs its choice, with the channel recorded (log 5). -/
theorem step_tx (hs : s.steps) (h : s.agenda = .tx u :: rest) :
    step s = exec (s.txChoice u) { s.turnTaken rest with txSel := u } :=
  step_of_fetch_run hs (by rw [fetch_of_turn h, fetchTurn_tx, State.txChoice_turnTaken])

/-- Settles O5, by the kind of turn at the head of the agenda; a transmitter's turn by what it finds to fetch. -/
theorem stepRunsTheDecodedOperation : Obligations.StepRunsTheDecodedOperation := by
  intro s rest hp hr
  have hs : s.steps := ⟨hp, hr⟩
  refine ⟨?host, ?operation, ?worker, ?handler, ?tx, ?empty⟩
  case host =>
    intro w side i ha hd
    exact step_of_fetch_run hs ((fetch_of_turn ha).trans (fetchTurn_host hd))
  case operation =>
    intro w i ha hd
    exact step_of_fetch_run hs ((fetch_of_turn ha).trans (fetchTurn_operation hd))
  case worker =>
    intro ha
    exact ⟨fun _ => step_of_choice hs (fetch_worker ha), step_of_no_choice hs (fetch_worker ha)⟩
  case handler =>
    intro ha
    exact ⟨fun _ => step_of_choice hs (fetch_handler ha), step_of_no_choice hs (fetch_handler ha)⟩
  case tx =>
    intro u ha
    have hstep := step_tx hs ha
    refine ⟨fun w hready hword => ⟨fun i hd => ?_, fun e hd => ?_⟩, fun hready hword => ?_, fun hready => ?_⟩
    · rw [txChoice_of_class hready hword hd] at hstep
      exact hstep
    · rw [txChoice_of_no_class hready hword hd] at hstep
      exact hstep
    · rw [txChoice_of_unwritten hword] at hstep
      exact hstep.trans (exec_txDesc_of_unwritten hready hword)
    · rw [txChoice_of_not_ready hready] at hstep
      exact hstep.trans (exec_txDesc_of_not_ready hready)
  case empty =>
    intro ha
    exact step_of_fetch_idle hs (fetch_of_empty_agenda ha)

end Sys2Proof.Machine
end

section
/-! From operations to steps: what a step adds to the operation it runs, so that a property every operation keeps is kept
by every step; and the step of a run that goes no further (O8). -/

namespace Sys2Proof.Machine

/-- `s` at the start of a step (R49, R54): the pulse of the step before is over, and the agenda, the side inputs and the
selected transmitter are the turn's. -/
def State.atTurn (s : State) (agenda : List Turn) (side : SideInputs) (tx : BitVec 8) : State :=
  { s with ctxSwitchReq := false, agenda := agenda, side := side, txSel := tx }

/-- Whatever the turn, the state it is fetched on is `s` at the start of a step. -/
theorem fetch_atTurn {s s' : State}
    (h : (∃ i, s.fetch = .run i s') ∨ s.fetch = .idle s' ∨ ∃ r, s.fetch = .reserved r s') :
    s' = s.atTurn s'.agenda s'.side s'.txSel := by
  obtain ⟨h1, h2, h3, h4, h5, h6, h7, h8, h9, h10, h11, h12, h13, h14, h15, h16⟩ := fetch_frame h
  cases s'
  simp_all [State.atTurn]

/-- A property that the start of a step, a refusal and every operation keep is kept by every step. -/
theorem step_keeps {P : State → Prop} (hturn : ∀ {s} a i x, P s → P (s.atTurn a i x))
    (hrefuse : ∀ {s} r, P s → P (s.refuse r)) (hexec : ∀ {i s t}, P s → exec i s = .next t → P t)
    {s t : State} (hs : P s) (h : step s = .next t) : P t := by
  have hfetched : ∀ s', ((∃ i, s.fetch = .run i s') ∨ s.fetch = .idle s' ∨ ∃ r, s.fetch = .reserved r s') → P s' :=
    fun s' hf => fetch_atTurn hf ▸ hturn _ _ _ hs
  obtain ⟨-, -, ⟨i, s', hf, hi⟩ | hf | ⟨r, s', hf, rfl⟩⟩ := step_next h
  · exact hexec (hfetched s' (.inl ⟨i, hf⟩)) hi
  · exact hfetched t (.inr (.inl hf))
  · exact hrefuse r (hfetched s' (.inr (.inr ⟨r, hf⟩)))

/-- Settles O8, by the two tests a step begins with. -/
theorem refusedRunAndBadParametersGoNoFurther : Obligations.RefusedRunAndBadParametersGoNoFurther := by
  intro s
  refine ⟨fun hbad => ?_, fun r hok hr => ?_⟩
  · simp [step, hbad]
  · simp [step, hok, hr]

end Sys2Proof.Machine
end

section
/-! What no operation takes back: the parameters, the number of units, and the sticky marks (R51, R54; O9). -/

namespace Sys2Proof.Machine

/-- `t` has the parameters and the number of units of `s`, and every sticky mark that is set in `s` (R51, R54). -/
structure MarksKept (s t : State) : Prop where
  params : t.params = s.params
  nstep : t.nstep = s.nstep
  encShort : s.faults.encShort = true → t.faults.encShort = true
  tickOverflow : s.faults.tickOverflow = true → t.faults.tickOverflow = true
  badDescriptor : s.faults.badDescriptor = true → t.faults.badDescriptor = true
  refused : s.refused ≠ none → t.refused ≠ none

variable {s t r : State} {u : Nat}

theorem MarksKept.refl (s : State) : MarksKept s s := ⟨rfl, rfl, id, id, id, id⟩

theorem MarksKept.trans (h : MarksKept s t) (h' : MarksKept t r) : MarksKept s r where
  params := h'.params.trans h.params
  nstep := h'.nstep.trans h.nstep
  encShort := h'.encShort ∘ h.encShort
  tickOverflow := h'.tickOverflow ∘ h.tickOverflow
  badDescriptor := h'.badDescriptor ∘ h.badDescriptor
  refused := h'.refused ∘ h.refused

/-- An update that leaves parameters, registry size and marks as they are. -/
theorem MarksKept.of_eq (hp : t.params = s.params) (hn : t.nstep = s.nstep) (hf : t.faults = s.faults)
    (hr : t.refused = s.refused) : MarksKept s t :=
  ⟨hp, hn, by simp [hf], by simp [hf], by simp [hf], by simp [hr]⟩

/-! ### The named updates -/

theorem MarksKept.atTurn (s : State) (a : List Turn) (i : SideInputs) (x : BitVec 8) : MarksKept s (s.atTurn a i x) :=
  .of_eq rfl rfl rfl rfl

theorem MarksKept.refuse (s : State) (r : Refusal) : MarksKept s (s.refuse r) :=
  ⟨rfl, rfl, id, id, id, fun _ => by simp [State.refuse]⟩

theorem MarksKept.log (s : State) (e : Event) : MarksKept s (s.log e) := .of_eq rfl rfl rfl rfl

theorem MarksKept.post (s : State) (m : Mask) : MarksKept s (s.post m) := .of_eq rfl rfl rfl rfl

theorem MarksKept.modUnit (s : State) (u : Nat) (f : UnitState → UnitState) : MarksKept s (s.modUnit u f) :=
  .of_eq rfl (State.nstep_modUnit s u f) rfl rfl

theorem MarksKept.ringPush (s : State) (u : Nat) (w : Desc) : MarksKept s (s.ringPush u w) := .modUnit _ _ _

theorem MarksKept.faultEncShort (s : State) : MarksKept s s.faultEncShort := ⟨rfl, rfl, fun _ => rfl, id, id, id⟩

theorem MarksKept.faultTickOverflow (s : State) : MarksKept s s.faultTickOverflow :=
  ⟨rfl, rfl, id, fun _ => rfl, id, id⟩

theorem MarksKept.faultBadDescriptor (s : State) (u : Nat) : MarksKept s (s.faultBadDescriptor u) :=
  ⟨rfl, State.nstep_modUnit _ _ _, id, id, fun _ => rfl, id⟩

theorem MarksKept.encodeFirst (s : State) (u n : Nat) : MarksKept s (s.encodeFirst u n) := by
  have hcalled : MarksKept s (s.modUnit u UnitState.called) := .modUnit _ _ _
  unfold State.encodeFirst
  split
  · exact hcalled.trans (.faultTickOverflow _)
  · split
    · exact hcalled.trans (.faultEncShort _)
    · exact hcalled.trans (.trans (.ringPush _ _ _) (.modUnit _ _ _))

theorem MarksKept.consume (s : State) (u : Nat) (w : Desc) : MarksKept s (s.consume u w) := by
  unfold State.consume State.transmit
  split
  · exact .modUnit _ _ _
  · split
    · exact .faultBadDescriptor _ _
    · exact .modUnit _ _ _

theorem MarksKept.retire (s : State) (u : Nat) : MarksKept s (s.retire u) := by
  obtain ⟨hp, -, -, -, -, -, -, -, -, -, -, hf, hr, -⟩ := s.retire_frame u
  exact .of_eq hp (State.nstep_retire s u) hf hr

theorem MarksKept.stopAll (s : State) (m : Mask) : MarksKept s (s.stopAll m) := by
  refine State.stopAll_induct (.refl s) fun t u _ ht => ht.trans ?_
  obtain ⟨-, h⟩ | ⟨-, -, h⟩ := State.stopUnit_cases m t u <;> rw [h]
  · exact .refl t
  · exact .trans (.modUnit _ _ _) (.retire _ _)

theorem MarksKept.complete (s : State) (u : Nat) : MarksKept s (s.complete u) := by
  have hhalt : MarksKept s (s.modUnit u UnitState.channelHalt) := .modUnit _ _ _
  unfold State.complete
  split
  · dsimp only
    split
    · exact hhalt.trans (.trans (.retire _ _) (.of_eq rfl rfl rfl rfl))
    · exact hhalt.trans (.retire _ _)
  · exact hhalt

theorem MarksKept.leaveFill (s : State) (u : Nat) : MarksKept s (s.leaveFill u) := by
  unfold State.leaveFill
  split <;> exact .of_eq rfl rfl rfl rfl

theorem MarksKept.leaveArm (s : State) (u : Nat) : MarksKept s (s.leaveArm u) := by
  unfold State.leaveArm
  split <;> exact .of_eq rfl rfl rfl rfl

theorem MarksKept.claim (s : State) (u : Nat) (c : UnitCfg) : MarksKept s (s.claim u c) :=
  .of_eq rfl (by simp [State.nstep, State.claim, State.modUnit]) rfl rfl

theorem MarksKept.load (s : State) (u : Nat) (d : Bool) (n : BitVec 32) : MarksKept s (s.load u d n) :=
  .of_eq rfl (by simp [State.nstep, State.load, State.modUnit]) rfl rfl

theorem MarksKept.begin (s : State) (m : Mask) (c : BitVec 32) : MarksKept s (s.begin m c) :=
  .of_eq rfl (State.nstep_driveDirections s m) rfl rfl

/-! ### Every operation -/

theorem exec_marksKept {i : Instr} (h : exec i s = .next t) : MarksKept s t := by
  cases i with
  | setup a b =>
    obtain ⟨e, rfl⟩ | ⟨u, -, -, -, -, -, rfl⟩ := execSetup_next h
    · exact .log _ _
    · exact .claim _ _ _
  | move v d n =>
    obtain ⟨e, rfl⟩ | rfl | ⟨-, -, -, rfl⟩ := execMove_next h
    · exact .log _ _
    · exact .refuse _ _
    · exact .load _ _ _ _
  | start m c =>
    obtain ⟨e, rfl⟩ | ⟨r, rfl⟩ | ⟨-, -, -, -, -, rfl⟩ := execStart_next h
    · exact .log _ _
    · exact .refuse _ _
    · exact .begin _ _ _
  | stop m =>
    obtain rfl := execStop_next h
    exact .trans (.stopAll _ _) (.log _ _)
  | wkTake =>
    obtain rfl | ⟨-, rfl⟩ := execWkTake_next h
    · exact .refl _
    · exact .of_eq rfl rfl rfl rfl
  | encFirst v =>
    obtain rfl | ⟨-, rfl⟩ := execEncFirst_next h
    · exact .refl _
    · exact .encodeFirst _ _ _
  | encCont v =>
    obtain rfl | ⟨-, rfl⟩ := execEncCont_next h
    · exact .refl _
    · exact .trans (.ringPush _ _ _) (.modUnit _ _ _)
  | encEnd v =>
    obtain rfl | ⟨-, rfl⟩ := execEncEnd_next h
    · exact .refl _
    · exact .trans (.ringPush _ _ _) (.modUnit _ _ _)
  | wkNext =>
    obtain rfl | ⟨u, -, -, rfl⟩ := execWkNext_next h
    · exact .refl _
    · exact .leaveFill _ _
  | wkArm =>
    obtain rfl | ⟨u, -, -, ⟨-, rfl⟩ | ⟨-, ws, -, rfl⟩⟩ := execWkArm_next h
    · exact .refl _
    · exact .leaveArm _ _
    · exact .trans (.modUnit _ _ _) (.leaveArm _ _)
  | txDesc v =>
    obtain rfl | ⟨-, w, -, hw, rfl⟩ := execTxDesc_next h
    · exact .refl _
    · exact State.consume_of_ne hw ▸ .consume _ _ _
  | txEnd v =>
    obtain rfl | ⟨-, -, rfl⟩ := execTxEnd_next h
    · exact .refl _
    · exact .modUnit _ _ _
  | hThr v =>
    obtain rfl | ⟨-, ⟨-, ws, -, rfl⟩ | ⟨-, rfl⟩⟩ := execHThr_next h
    · exact .refl _
    · split
      · exact .modUnit _ _ _
      · exact .trans (.modUnit _ _ _) (.post _ _)
    · exact .modUnit _ _ _
  | hEnd v =>
    obtain rfl | ⟨-, rfl⟩ := execHEnd_next h
    · exact .refl _
    · exact .complete _ _
  | descEnd =>
    obtain rfl | ⟨-, rfl⟩ := execDescEnd_next h
    · exact .refl _
    · exact .consume _ _ _
  | descStep a b =>
    obtain rfl | ⟨-, rfl⟩ := execDescStep_next h
    · exact .refl _
    · exact .consume _ _ _
  | descLow a b =>
    obtain rfl | ⟨-, rfl⟩ := execDescLow_next h
    · exact .refl _
    · exact .consume _ _ _

theorem step_marksKept (h : step s = .next t) : MarksKept s t :=
  step_keeps (P := MarksKept s) (fun _ _ _ hs => hs.trans (.atTurn _ _ _ _)) (fun _ hs => hs.trans (.refuse _ _))
    (fun hs hi => hs.trans (exec_marksKept hi)) (.refl s) h

/-- Settles O9: every operation and every step keeps the marks. -/
theorem parametersAndStickyMarksStay : Obligations.ParametersAndStickyMarksStay := by
  refine ⟨fun s t h => ?_, fun s r i h => (exec_marksKept h).refused⟩
  have hk := step_marksKept h
  exact ⟨hk.params, hk.nstep, hk.encShort, hk.tickOverflow, hk.badDescriptor⟩

end Sys2Proof.Machine
end

section
/-! What each operation does to the registers of the block: the Synchronization State, the worker and the context-switch
pulse (R42 to R49). -/

namespace Sys2Proof.Machine

/-- The registers of the block that belong to no unit: the Synchronization State (R42 to R44), the worker (R47) and the
context-switch pulse (R49). -/
structure Block where
  activeMask : Mask
  activeCount : Nat
  waiterValid : Bool
  waiterId : BitVec 32
  workerCreated : Bool
  workerSig : Mask
  wkState : WkState
  wkMask : Mask
  wkUnit : Option Nat
  ctxSwitchReq : Bool

/-- The block's registers in a state. -/
def State.block (s : State) : Block where
  activeMask := s.activeMask
  activeCount := s.activeCount
  waiterValid := s.waiterValid
  waiterId := s.waiterId
  workerCreated := s.workerCreated
  workerSig := s.workerSig
  wkState := s.wkState
  wkMask := s.wkMask
  wkUnit := s.wkUnit
  ctxSwitchReq := s.ctxSwitchReq

variable {s t : State}

/-! ### The updates that leave the block's registers alone -/

@[simp] theorem State.block_modUnit (s : State) (u : Nat) (f : UnitState → UnitState) :
    (s.modUnit u f).block = s.block := rfl

@[simp] theorem State.block_refill (s : State) (u : Nat) (ws : List Desc) : (s.refill u ws).block = s.block := rfl

@[simp] theorem State.block_armUnit (s : State) (u : Nat) (ws : List Desc) : (s.armUnit u ws).block = s.block := rfl

@[simp] theorem State.block_endTrain (s : State) (u : Nat) : (s.endTrain u).block = s.block := rfl

@[simp] theorem State.block_transmit (s : State) (u : Nat) (w : Desc) : (s.transmit u w).block = s.block := by
  unfold State.transmit; split <;> rfl

@[simp] theorem State.block_consume (s : State) (u : Nat) (w : Desc) : (s.consume u w).block = s.block := by
  unfold State.consume; split <;> simp

@[simp] theorem State.block_encodeFirst (s : State) (u n : Nat) : (s.encodeFirst u n).block = s.block := by
  unfold State.encodeFirst
  split
  · rfl
  · split <;> rfl

/-- Posting reads and writes nothing but the block's registers. -/
theorem State.block_post_congr (h : t.block = s.block) (m : Mask) : (t.post m).block = (s.post m).block := by
  simp_all [State.block, State.post]

/-- Leaving a unit in ARMPASS reads and writes nothing but the block's registers. -/
theorem State.block_leaveArm_congr (h : t.block = s.block) (u : Nat) : (t.leaveArm u).block = (s.leaveArm u).block := by
  have hmask : t.wkMask = s.wkMask := congrArg Block.wkMask h
  unfold State.leaveArm
  rw [hmask]
  split <;> simp_all [State.block]

/-! ### The updates that write them -/

/-- What an operation can do to the block's registers: the block after it is that of one of these states. -/
inductive BlockUpdate (s : State) : Instr → State → Prop where
  | stay {i} : BlockUpdate s i s
  | claim {a b} : BlockUpdate s (.setup a b) { s with workerCreated := true }
  | begin {m c} (names_units : beyond m s.nstep = 0) (names_some : m ≠ 0) : BlockUpdate s (.start m c) (s.begin m c)
  | stop {m} : BlockUpdate s (.stop m) (s.stopAll m)
  | take (enabled : s.canTake = true) : BlockUpdate s .wkTake
      { s with wkMask := s.workerSig, workerSig := 0, wkUnit := lowbit s.workerSig, wkState := .fill }
  | leaveFill {u} (serves : s.wkUnit = some u) (enabled : s.canNext u = true) : BlockUpdate s .wkNext (s.leaveFill u)
  | leaveArm {u} (serves : s.wkUnit = some u) (enabled : s.canArmPass u = true) : BlockUpdate s .wkArm (s.leaveArm u)
  | post {v} (pending : (s.unit v.toNat).thrPending = true) : BlockUpdate s (.hThr v) (s.post (unitBit v.toNat))
  | complete {v} : BlockUpdate s (.hEnd v) (s.complete v.toNat)

theorem exec_block {i : Instr} (h : exec i s = .next t) : ∃ r, BlockUpdate s i r ∧ t.block = r.block := by
  have stays : ∀ {t : State}, t.block = s.block → ∃ r, BlockUpdate s i r ∧ t.block = r.block :=
    fun hb => ⟨s, .stay, hb⟩
  cases i with
  | setup a b =>
    obtain ⟨e, rfl⟩ | ⟨u, -, -, -, -, -, rfl⟩ := execSetup_next h
    · exact stays rfl
    · exact ⟨_, .claim, rfl⟩
  | move v d n =>
    obtain ⟨e, rfl⟩ | rfl | ⟨-, -, -, rfl⟩ := execMove_next h <;> exact stays rfl
  | start m c =>
    obtain ⟨e, rfl⟩ | ⟨r, rfl⟩ | ⟨hin, hne, -, -, -, rfl⟩ := execStart_next h
    · exact stays rfl
    · exact stays rfl
    · exact ⟨_, .begin hin hne, rfl⟩
  | stop m =>
    obtain rfl := execStop_next h
    exact ⟨_, .stop, rfl⟩
  | wkTake =>
    obtain rfl | ⟨htake, rfl⟩ := execWkTake_next h
    · exact stays rfl
    · exact ⟨_, .take htake, rfl⟩
  | encFirst v =>
    obtain rfl | ⟨-, rfl⟩ := execEncFirst_next h
    · exact stays rfl
    · exact stays (State.block_encodeFirst _ _ _)
  | encCont v =>
    obtain rfl | ⟨-, rfl⟩ := execEncCont_next h <;> exact stays rfl
  | encEnd v =>
    obtain rfl | ⟨-, rfl⟩ := execEncEnd_next h <;> exact stays rfl
  | wkNext =>
    obtain rfl | ⟨u, hu, hnext, rfl⟩ := execWkNext_next h
    · exact stays rfl
    · exact ⟨_, .leaveFill hu hnext, rfl⟩
  | wkArm =>
    obtain rfl | ⟨u, hu, harm, ⟨-, rfl⟩ | ⟨-, ws, -, rfl⟩⟩ := execWkArm_next h
    · exact stays rfl
    · exact ⟨_, .leaveArm hu harm, rfl⟩
    · exact ⟨_, .leaveArm hu harm, State.block_leaveArm_congr (State.block_armUnit s u ws) u⟩
  | txDesc v =>
    obtain rfl | ⟨-, w, -, -, rfl⟩ := execTxDesc_next h
    · exact stays rfl
    · exact stays (State.block_transmit _ _ _)
  | txEnd v =>
    obtain rfl | ⟨-, -, rfl⟩ := execTxEnd_next h <;> exact stays rfl
  | hThr v =>
    obtain rfl | ⟨hthr, ⟨-, ws, -, rfl⟩ | ⟨-, rfl⟩⟩ := execHThr_next h
    · exact stays rfl
    · split
      · exact stays rfl
      · exact ⟨_, .post hthr, State.block_post_congr (State.block_refill s _ ws) _⟩
    · exact stays rfl
  | hEnd v =>
    obtain rfl | ⟨-, rfl⟩ := execHEnd_next h
    · exact stays rfl
    · exact ⟨_, .complete, rfl⟩
  | descEnd =>
    obtain rfl | ⟨-, rfl⟩ := execDescEnd_next h
    · exact stays rfl
    · exact stays (State.block_consume _ _ _)
  | descStep a b =>
    obtain rfl | ⟨-, rfl⟩ := execDescStep_next h
    · exact stays rfl
    · exact stays (State.block_consume _ _ _)
  | descLow a b =>
    obtain rfl | ⟨-, rfl⟩ := execDescLow_next h
    · exact stays rfl
    · exact stays (State.block_consume _ _ _)

/-! ### The branches of the worker's moves and of H_END -/

theorem State.leaveFill_cases (s : State) (u : Nat) :
    (∃ n, nextbit s.wkMask u = some n ∧ s.leaveFill u = { s with wkUnit := some n }) ∨
    (nextbit s.wkMask u = none ∧ s.leaveFill u = { s with wkState := .armPass, wkUnit := lowbit s.wkMask }) := by
  unfold State.leaveFill
  split
  · next n hn => exact .inl ⟨n, hn, rfl⟩
  · next hn => exact .inr ⟨hn, rfl⟩

theorem State.leaveArm_cases (s : State) (u : Nat) :
    (∃ n, nextbit s.wkMask u = some n ∧ s.leaveArm u = { s with wkUnit := some n }) ∨
    (nextbit s.wkMask u = none ∧ s.leaveArm u = { s with wkState := .wait, wkUnit := none }) := by
  unfold State.leaveArm
  split
  · next n hn => exact .inl ⟨n, hn, rfl⟩
  · next hn => exact .inr ⟨hn, rfl⟩

/-- H_END by whether the unit was active, and whether it was the last (R197). -/
theorem State.complete_cases (s : State) (u : Nat) :
    (s.activeMask.getLsbD u = false ∧ s.complete u = s.modUnit u UnitState.channelHalt) ∨
    (s.activeMask.getLsbD u = true ∧ s.activeCount - 1 ≠ 0 ∧
      s.complete u = (s.modUnit u UnitState.channelHalt).retire u) ∨
    (s.activeMask.getLsbD u = true ∧ s.activeCount - 1 = 0 ∧
      s.complete u = { (s.modUnit u UnitState.channelHalt).retire u with ctxSwitchReq := true }) := by
  obtain ⟨-, -, -, hcount, -⟩ := (s.modUnit u UnitState.channelHalt).retire_frame u
  unfold State.complete
  split
  · next hact =>
    dsimp only
    split
    · next hlast => exact .inr (.inr ⟨hact, hcount ▸ hlast, rfl⟩)
    · next hmore => exact .inr (.inl ⟨hact, hcount ▸ hmore, rfl⟩)
  · next hact => exact .inl ⟨by simpa using hact, rfl⟩

end Sys2Proof.Machine
end

section
/-! The invariant of the Synchronization State (R45) is kept by every step (O42). -/

namespace Sys2Proof.Machine

variable {s t : State} {u : Nat}

/-- The invariant reads the Synchronization State only. -/
theorem SyncInv.congr (hs : SyncInv s) (hm : t.activeMask = s.activeMask) (hc : t.activeCount = s.activeCount)
    (hw : t.waiterValid = s.waiterValid) : SyncInv t where
  count := by rw [hm, hc, hs.count]
  waiter := by rw [hw, hc, hs.waiter]

theorem SyncInv.of_block (hs : SyncInv s) (hb : t.block = s.block) : SyncInv t :=
  hs.congr (congrArg Block.activeMask hb) (congrArg Block.activeCount hb) (congrArg Block.waiterValid hb)

theorem State.wake_waiterValid (s : State) : s.wake.waiterValid = false := by
  cases h : s.waiterValid
  · rw [State.wake_of_none h, h]
  · rw [State.wake_of_valid h]

/-- Retiring a unit wakes the waiter exactly when no active unit remains (R215). -/
theorem State.retire_waiterValid (s : State) (u : Nat) :
    (s.retire u).waiterValid = if s.activeCount - 1 = 0 then false else s.waiterValid := by
  split
  · next hlast => rw [State.retire_of_last hlast, State.wake_waiterValid]
  · next hmore => rw [State.retire_of_more hmore]

/-- Retiring an active unit takes one from the mask and one from the count, and the last one releases the waiter. -/
theorem SyncInv.retire (hs : SyncInv s) (hact : s.activeMask.getLsbD u = true) : SyncInv (s.retire u) := by
  obtain ⟨-, -, hmask, hcount, -⟩ := s.retire_frame u
  have hpop := popcount_clear hact
  have hold := hs.count
  refine ⟨?_, ?_⟩
  · rw [hmask, hcount]; omega
  · rw [hcount, s.retire_waiterValid]
    split
    · next hlast => simp [hlast]
    · next hmore => rw [hs.waiter]; omega

theorem SyncInv.begin (s : State) {m : Mask} (hm : m ≠ 0) (c : BitVec 32) : SyncInv (s.begin m c) where
  count := rfl
  waiter := by
    obtain ⟨u, hu⟩ := exists_bit_of_ne_zero hm
    have hpos : 0 < popcount (s.activeMask ||| m) := popcount_pos (u := u) (by rw [BitVec.getLsbD_or, hu, Bool.or_true])
    exact ⟨fun _ => hpos, fun _ => rfl⟩

theorem SyncInv.stopAll (hs : SyncInv s) (m : Mask) : SyncInv (s.stopAll m) := by
  refine State.stopAll_induct hs fun t u _ ht => ?_
  obtain ⟨-, h⟩ | ⟨-, hact, h⟩ := State.stopUnit_cases m t u <;> rw [h]
  · exact ht
  · exact (ht.of_block (State.block_modUnit t u _)).retire hact

theorem SyncInv.complete (hs : SyncInv s) (u : Nat) : SyncInv (s.complete u) := by
  have hhalt := hs.of_block (State.block_modUnit s u UnitState.channelHalt)
  obtain ⟨-, h⟩ | ⟨hact, -, h⟩ | ⟨hact, -, h⟩ := s.complete_cases u <;> rw [h]
  · exact hhalt
  · exact hhalt.retire hact
  · exact (hhalt.retire hact).congr rfl rfl rfl

theorem SyncInv.blockUpdate {i : Instr} (hs : SyncInv s) (h : BlockUpdate s i t) : SyncInv t := by
  cases h with
  | stay => exact hs
  | claim => exact hs.congr rfl rfl rfl
  | begin _ hm => exact .begin s hm _
  | stop => exact hs.stopAll _
  | take _ => exact hs.congr rfl rfl rfl
  | @leaveFill u _ _ =>
    obtain ⟨n, -, h⟩ | ⟨-, h⟩ := s.leaveFill_cases u <;> rw [h] <;> exact hs.congr rfl rfl rfl
  | @leaveArm u _ _ =>
    obtain ⟨n, -, h⟩ | ⟨-, h⟩ := s.leaveArm_cases u <;> rw [h] <;> exact hs.congr rfl rfl rfl
  | post _ => exact hs.congr rfl rfl rfl
  | complete => exact hs.complete _

theorem exec_syncInv {i : Instr} (hs : SyncInv s) (h : exec i s = .next t) : SyncInv t := by
  obtain ⟨r, hr, hb⟩ := exec_block h
  exact (hs.blockUpdate hr).of_block hb

/-- Settles O42: the start of a step and a refusal leave the Synchronization State alone, and every operation keeps the
invariant. -/
theorem everyStepKeepsTheSyncInvariant : Obligations.EveryStepKeepsTheSyncInvariant := by
  intro s t hs h
  exact step_keeps (fun _ _ _ hs => hs.congr rfl rfl rfl) (fun _ hs => hs.congr rfl rfl rfl) exec_syncInv hs h

end Sys2Proof.Machine
end

section
/-! What each operation does to a unit of the registry: an update of one unit, of the few kinds R52's table tells apart. -/

namespace Sys2Proof.Machine

variable {s t : State}

/-! ### Updates of one unit -/

/-- `RingPush` as it acts on the unit (R150). -/
def UnitState.push (x : UnitState) (p : Params) (w : Desc) : UnitState :=
  { x with ring := Memory.writeWord x.ring (x.head % p.ringCap) w, head := (x.head + 1) % p.ringCap }

theorem State.ringPush_eq (s : State) (u : Nat) (w : Desc) : s.ringPush u w = s.modUnit u (·.push s.params w) := rfl

/-- Two updates of one unit are one. -/
theorem State.modUnit_modUnit (s : State) (u : Nat) (f g : UnitState → UnitState) :
    (s.modUnit u f).modUnit u g = s.modUnit u (g ∘ f) := by
  by_cases hu : u < s.nstep
  · have hunit : (s.modUnit u f).unit u = f (s.unit u) := State.unit_modUnit_same hu f
    simp only [State.modUnit, State.setUnit] at hunit ⊢
    simp [hunit]
  · have hlen : s.units.length ≤ u := Nat.le_of_not_lt hu
    simp [State.modUnit, State.setUnit, List.set_eq_of_length_le hlen]

/-- An interval the contract covers is one update of the unit: the oracle called, the word pushed, the rest carried (R133). -/
theorem State.encodeFirst_modUnit {n : Nat} (h1 : s.params.pulse < n) (h2 : n < Config.tickLimit) :
    s.encodeFirst u n = s.modUnit u fun x =>
      (x.called.push s.params (stepWord n s.params.pulse)).carry (firstCarry n s.params.pulse) := by
  rw [State.encodeFirst_valid h1 h2, State.ringPush_eq, State.modUnit_modUnit, State.modUnit_modUnit]
  rfl

/-- The output of a descriptor as it acts on the unit (R181, R183). -/
def UnitState.output (x : UnitState) (p : Params) (w : Desc) : UnitState :=
  { (x.emit (lvl0 w) (dur0 w)).emit (lvl1 w) (dur1 w) with
    stepOut := restLevel w
    txPos := (x.txPos + 1) % p.winSize
    txAvail := x.txAvail - 1
    thrPending := x.thrPending || decide ((x.txPos + 1) % p.winSize % p.half = 0) }

theorem State.transmit_valid {u : Nat} {w : Desc} (h : bothZero w = false) :
    s.transmit u w = s.modUnit u (·.output s.params w) := by
  rw [State.transmit, h]
  rfl

theorem State.unit_claim (s : State) (v u : Nat) (c : UnitCfg) :
    (s.claim v c).unit u = (s.modUnit v fun x => { x with cfg := c, setup := true }).unit u := rfl

theorem State.unit_load (s : State) (v u : Nat) (d : Bool) (n : BitVec 32) :
    (s.load v d n).unit u = (s.modUnit v fun x =>
      { x with
        direction := d, motion := some (s.side.prepare (s.prepares + 1)), motionCalls := 0, stepsRemaining := n,
        head := 0, tail := 0, pendingTicks := 0, hwOffset := 0, endEmitted := false, armed := false }).unit u := rfl

theorem State.unit_faultBadDescriptor (s : State) (v u : Nat) :
    (s.faultBadDescriptor v).unit u = (s.modUnit v fun x => { x with txDead := true }).unit u := rfl

theorem State.unit_complete (s : State) (v u : Nat) :
    (s.complete v).unit u = (s.modUnit v UnitState.channelHalt).unit u := by
  obtain ⟨-, h⟩ | ⟨-, -, h⟩ | ⟨-, -, h⟩ := s.complete_cases v <;> rw [h]
  · exact State.unit_retire _ _ _
  · exact State.unit_retire (s.modUnit v UnitState.channelHalt) v u

theorem State.unit_leaveFill (s : State) (v u : Nat) : (s.leaveFill v).unit u = s.unit u := by
  obtain ⟨n, -, h⟩ | ⟨-, h⟩ := s.leaveFill_cases v <;> rw [h] <;> rfl

theorem State.unit_leaveArm (s : State) (v u : Nat) : (s.leaveArm v).unit u = s.unit u := by
  obtain ⟨n, -, h⟩ | ⟨-, h⟩ := s.leaveArm_cases v <;> rw [h] <;> rfl

/-- A STOP leaves a unit alone or halts its channel, and halts only the units it names (R214). -/
theorem State.unit_stopAll (s : State) (m : Mask) (u : Nat) :
    (s.stopAll m).unit u = s.unit u ∨
    (m.getLsbD u = true ∧ (s.stopAll m).unit u = (s.unit u).channelHalt) := by
  refine State.stopAll_induct (P := fun t => t.unit u = s.unit u ∨
    (m.getLsbD u = true ∧ t.unit u = (s.unit u).channelHalt)) (.inl rfl) fun t v _ ht => ?_
  obtain ⟨-, h⟩ | ⟨hm, -, h⟩ := State.stopUnit_cases m t v <;> rw [h]
  · exact ht
  · rw [State.unit_retire, State.unit_modUnit]
    split
    · next hv =>
      obtain ⟨rfl, -⟩ := hv
      obtain ht | ⟨-, ht⟩ := ht
      · exact .inr ⟨hm, by rw [ht]⟩
      · exact .inr ⟨hm, by rw [ht]; rfl⟩
    · exact ht

/-! ### What an operation can do to a unit -/

/-- What an operation can do to unit u: the unit after it is one of these, and the operation is the one named. -/
inductive UnitUpdate (s : State) (u : Nat) : Instr → UnitState → Prop where
  | stay {i} : UnitUpdate s u i (s.unit u)
  | claim {a b c} (free : (s.unit u).setup = false) :
      UnitUpdate s u (.setup a b) { s.unit u with cfg := c, setup := true }
  | load {v dir n motion} (names : v.toNat = u) : UnitUpdate s u (.move v dir n)
      { s.unit u with
        direction := dir, motion := motion, motionCalls := 0, stepsRemaining := n, head := 0, tail := 0,
        pendingTicks := 0, hwOffset := 0, endEmitted := false, armed := false }
  | drive {m c} (names : m.getLsbD u = true) :
      UnitUpdate s u (.start m c) { s.unit u with dirOut := (s.unit u).direction }
  | halt {i} (halts : MayHalt i u) : UnitUpdate s u i (s.unit u).channelHalt
  | call {v} (names : v.toNat = u) : UnitUpdate s u (.encFirst v) (s.unit u).called
  | first {v p w n} (names : v.toNat = u) : UnitUpdate s u (.encFirst v) (((s.unit u).called.push p w).carry n)
  | more {v p w n} (names : v.toNat = u) : UnitUpdate s u (.encCont v) (((s.unit u).push p w).carry n)
  | last {v p w} (names : v.toNat = u) : UnitUpdate s u (.encEnd v) { (s.unit u).push p w with endEmitted := true }
  | arm {win tail hwOffset n} (serves : s.wkUnit = some u) (unarmed : (s.unit u).armed = false) : UnitUpdate s u .wkArm
      { (s.unit u).channelArm n with win := win, tail := tail, hwOffset := hwOffset, armed := true }
  | die {i} (tx : IsTxOf s i u) : UnitUpdate s u i { s.unit u with txDead := true }
  | output {i p w} (tx : IsTxOf s i u) : UnitUpdate s u i ((s.unit u).output p w)
  | endTrain {i} (tx : IsTxOf s i u) :
      UnitUpdate s u i { s.unit u with txRun := false, stepOut := false, endPending := true }
  | refill {v win tail hwOffset txAvail} (names : v.toNat = u) (armed : (s.unit u).armed = true) :
      UnitUpdate s u (.hThr v)
        { s.unit u with win := win, tail := tail, hwOffset := hwOffset, txAvail := txAvail, thrPending := false }
  | clear {v} (names : v.toNat = u) : UnitUpdate s u (.hThr v) { s.unit u with thrPending := false }

variable {i : Instr} {u : Nat}

/-- An update of unit v reaches unit u only where they are one. -/
theorem UnitUpdate.modUnit {v : Nat} {f : UnitState → UnitState}
    (h : v = u → UnitUpdate s u i (f (s.unit u))) : UnitUpdate s u i ((s.modUnit v f).unit u) := by
  rw [State.unit_modUnit]
  split
  · next huv =>
    obtain ⟨rfl, -⟩ := huv
    exact h rfl
  · exact .stay

theorem UnitUpdate.consume {v : Nat} (w : Desc) (h : v = u → IsTxOf s i u) :
    UnitUpdate s u i ((s.consume v w).unit u) := by
  by_cases hmarker : w = marker
  · rw [hmarker, State.consume_marker]
    exact .modUnit fun hv => .endTrain (h hv)
  · rw [State.consume_of_ne hmarker]
    cases hzero : bothZero w
    · rw [State.transmit_valid hzero]
      exact .modUnit fun hv => .output (h hv)
    · rw [State.transmit_bad hzero, State.unit_faultBadDescriptor]
      exact .modUnit fun hv => .die (h hv)

theorem UnitUpdate.encodeFirst {v : BitVec 8} (n : Nat) :
    UnitUpdate s u (.encFirst v) ((s.encodeFirst v.toNat n).unit u) := by
  by_cases hover : Config.tickLimit ≤ n
  · rw [State.encodeFirst_overflow hover, State.unit_faultTickOverflow]
    exact .modUnit .call
  · by_cases hshort : n ≤ s.params.pulse
    · rw [State.encodeFirst_short hshort (by omega), State.unit_faultEncShort]
      exact .modUnit .call
    · rw [State.encodeFirst_modUnit (by omega) (by omega)]
      exact .modUnit .first

theorem UnitUpdate.begin (m : Mask) (c : BitVec 32) : UnitUpdate s u (.start m c) ((s.begin m c).unit u) := by
  have hunit : (s.begin m c).unit u = (s.driveDirections m).unit u := rfl
  rw [hunit]
  by_cases hu : u < s.nstep
  · rw [State.unit_driveDirections s m hu]
    split
    · next hm => exact .drive hm
    · exact .stay
  · rw [State.unit_of_ge (by rw [State.nstep_driveDirections]; omega), ← State.unit_of_ge (Nat.le_of_not_lt hu)]
    exact .stay

theorem State.setup_of_freeUnit {v : Nat} (h : s.freeUnit = some v) : (s.unit v).setup = false := by
  unfold State.freeUnit at h
  simpa using List.find?_some h

theorem exec_unit (h : exec i s = .next t) (u : Nat) : UnitUpdate s u i (t.unit u) := by
  cases i with
  | setup a b =>
    obtain ⟨e, rfl⟩ | ⟨v, hfree, -, -, -, -, rfl⟩ := execSetup_next h
    · exact .stay
    · rw [State.unit_claim]
      exact .modUnit fun hv => .claim (hv ▸ State.setup_of_freeUnit hfree)
  | move v d n =>
    obtain ⟨e, rfl⟩ | rfl | ⟨-, -, -, rfl⟩ := execMove_next h
    · exact .stay
    · exact .stay
    · rw [State.unit_load]
      exact .modUnit .load
  | start m c =>
    obtain ⟨e, rfl⟩ | ⟨r, rfl⟩ | ⟨-, -, -, -, -, rfl⟩ := execStart_next h
    · exact .stay
    · exact .stay
    · exact .begin m c
  | stop m =>
    obtain rfl := execStop_next h
    rw [State.respond_eq, State.unit_log]
    obtain hu | ⟨hm, hu⟩ := s.unit_stopAll m u <;> rw [hu]
    · exact .stay
    · exact .halt (.inl ⟨m, rfl, hm⟩)
  | wkTake =>
    obtain rfl | ⟨-, rfl⟩ := execWkTake_next h <;> exact .stay
  | encFirst v =>
    obtain rfl | ⟨-, rfl⟩ := execEncFirst_next h
    · exact .stay
    · exact .encodeFirst _
  | encCont v =>
    obtain rfl | ⟨-, rfl⟩ := execEncCont_next h
    · exact .stay
    · rw [State.ringPush_eq, State.modUnit_modUnit]
      exact .modUnit .more
  | encEnd v =>
    obtain rfl | ⟨-, rfl⟩ := execEncEnd_next h
    · exact .stay
    · rw [State.ringPush_eq, State.modUnit_modUnit]
      exact .modUnit .last
  | wkNext =>
    obtain rfl | ⟨v, -, -, rfl⟩ := execWkNext_next h
    · exact .stay
    · rw [State.unit_leaveFill]
      exact .stay
  | wkArm =>
    obtain rfl | ⟨v, hv, -, ⟨-, rfl⟩ | ⟨hready, ws, -, rfl⟩⟩ := execWkArm_next h
    · exact .stay
    · rw [State.unit_leaveArm]
      exact .stay
    · rw [State.unit_leaveArm]
      have hunarmed : (s.unit v).armed = false := by
        simp only [State.armReady, Bool.and_eq_true, Bool.not_eq_true'] at hready
        exact hready.1.2
      exact .modUnit fun huv => .arm (huv ▸ hv) (huv ▸ hunarmed)
  | txDesc v =>
    obtain rfl | ⟨-, w, -, hw, rfl⟩ := execTxDesc_next h
    · exact .stay
    · rw [← State.consume_of_ne hw]
      exact .consume w fun hv => .inl ⟨v, .inl rfl, hv⟩
  | txEnd v =>
    obtain rfl | ⟨-, -, rfl⟩ := execTxEnd_next h
    · exact .stay
    · rw [← State.consume_marker]
      exact .consume marker fun hv => .inl ⟨v, .inr rfl, hv⟩
  | hThr v =>
    obtain rfl | ⟨-, ⟨harmed, ws, -, rfl⟩ | ⟨-, rfl⟩⟩ := execHThr_next h
    · exact .stay
    · have hrefill : UnitUpdate s u (.hThr v) ((s.refill v.toNat ws).unit u) :=
        .modUnit fun hv => .refill hv (hv ▸ harmed)
      split
      · exact hrefill
      · rw [State.unit_post]
        exact hrefill
    · exact UnitUpdate.modUnit .clear
  | hEnd v =>
    obtain rfl | ⟨-, rfl⟩ := execHEnd_next h
    · exact .stay
    · rw [State.unit_complete]
      exact .modUnit fun hv => .halt (.inr ⟨v, rfl, hv⟩)
  | descEnd =>
    obtain rfl | ⟨-, rfl⟩ := execDescEnd_next h
    · exact .stay
    · exact .consume _ fun hv => .inr ⟨hv, .inl rfl⟩
  | descStep a b =>
    obtain rfl | ⟨-, rfl⟩ := execDescStep_next h
    · exact .stay
    · exact .consume _ fun hv => .inr ⟨hv, .inr (.inl ⟨a, b, rfl⟩)⟩
  | descLow a b =>
    obtain rfl | ⟨-, rfl⟩ := execDescLow_next h
    · exact .stay
    · exact .consume _ fun hv => .inr ⟨hv, .inr (.inr ⟨a, b, rfl⟩)⟩

end Sys2Proof.Machine
end

section
/-! The table of which operation writes which register (R52; O48), with the one case it leaves to the model: H_THR of an
unarmed unit (O32). -/

namespace Sys2Proof.Machine

variable {s t r : State} {i : Instr} {u : Nat}

/-! ### The registers of a unit -/

/-- Every register of unit u that differs in `y` is written by an operation R52 lists for it. -/
structure UnitOwners (s : State) (u : Nat) (i : Instr) (y : UnitState) : Prop where
  config : (y.cfg ≠ (s.unit u).cfg ∨ y.setup ≠ (s.unit u).setup) → ∃ a b, i = .setup a b
  configured : (s.unit u).setup = true → y.setup = true ∧ y.cfg = (s.unit u).cfg
  train : (y.direction ≠ (s.unit u).direction ∨ y.motion ≠ (s.unit u).motion) → IsMoveOf i u
  stepsRemaining : y.stepsRemaining ≠ (s.unit u).stepsRemaining →
    IsMoveOf i u ∨ ∃ v, (i = .encFirst v ∨ i = .encCont v) ∧ v.toNat = u
  pendingTicks : y.pendingTicks ≠ (s.unit u).pendingTicks →
    IsMoveOf i u ∨ ∃ v, (i = .encFirst v ∨ i = .encCont v) ∧ v.toNat = u
  motionCalls : y.motionCalls ≠ (s.unit u).motionCalls → IsMoveOf i u ∨ ∃ v, i = .encFirst v ∧ v.toNat = u
  endEmitted : y.endEmitted ≠ (s.unit u).endEmitted → IsMoveOf i u ∨ ∃ v, i = .encEnd v ∧ v.toNat = u
  head : y.head ≠ (s.unit u).head → IsMoveOf i u ∨ IsEncodeOf i u
  ring : y.ring ≠ (s.unit u).ring → IsEncodeOf i u
  tail : y.tail ≠ (s.unit u).tail → IsMoveOf i u ∨ (IsThresholdOf i u ∧ (s.unit u).armed = true) ∨
    (IsArmOf s i u ∧ (s.unit u).armed = false)
  hwOffset : y.hwOffset ≠ (s.unit u).hwOffset → IsMoveOf i u ∨ IsThresholdOf i u ∨ IsArmOf s i u
  win : y.win ≠ (s.unit u).win → IsThresholdOf i u ∨ IsArmOf s i u
  armed : y.armed ≠ (s.unit u).armed → IsMoveOf i u ∨ IsArmOf s i u
  fetch : (y.txRun ≠ (s.unit u).txRun ∨ y.txPos ≠ (s.unit u).txPos) → IsArmOf s i u ∨ IsTxOf s i u ∨ MayHalt i u
  txAvail : y.txAvail ≠ (s.unit u).txAvail → IsArmOf s i u ∨ IsTxOf s i u ∨ IsThresholdOf i u ∨ MayHalt i u
  thrPending : y.thrPending ≠ (s.unit u).thrPending →
    IsArmOf s i u ∨ IsTxOf s i u ∨ IsThresholdOf i u ∨ MayHalt i u
  endPending : y.endPending ≠ (s.unit u).endPending → IsArmOf s i u ∨ IsTxOf s i u ∨ MayHalt i u
  stepOut : y.stepOut ≠ (s.unit u).stepOut → IsTxOf s i u ∨ MayHalt i u
  trace : y.trace ≠ (s.unit u).trace → IsTxOf s i u
  dirOut : y.dirOut ≠ (s.unit u).dirOut → ∃ m c, i = .start m c ∧ m.getLsbD u = true

theorem UnitUpdate.owners {y : UnitState} (h : UnitUpdate s u i y) : UnitOwners s u i y := by
  cases h with
  | stay => constructor <;> simp
  | claim free => constructor <;> simp [free]
  | @load v dir n _ names =>
    have hmove : IsMoveOf (.move v dir n) u := ⟨v, dir, n, rfl, names⟩
    constructor <;> simp [hmove]
  | drive names => constructor <;> simp [names]
  | halt halts => constructor <;> simp [halts]
  | call names => constructor <;> simp [names]
  | @first v _ _ _ names =>
    have hencode : IsEncodeOf (.encFirst v) u := ⟨v, .inl rfl, names⟩
    constructor <;> simp [UnitState.push, hencode, names]
  | @more v _ _ _ names =>
    have hencode : IsEncodeOf (.encCont v) u := ⟨v, .inr (.inl rfl), names⟩
    constructor <;> simp [UnitState.push, hencode, names]
  | @last v _ _ names =>
    have hencode : IsEncodeOf (.encEnd v) u := ⟨v, .inr (.inr rfl), names⟩
    constructor <;> simp [UnitState.push, hencode, names]
  | arm serves unarmed =>
    have harm : IsArmOf s .wkArm u := ⟨rfl, serves⟩
    constructor <;> simp [harm, unarmed]
  | die tx => constructor <;> simp
  | output tx => constructor <;> simp [UnitState.output, tx]
  | endTrain tx => constructor <;> simp [tx]
  | @refill v _ _ _ _ names armed =>
    have hthreshold : IsThresholdOf (.hThr v) u := ⟨v, rfl, names⟩
    constructor <;> simp [hthreshold, armed]
  | @clear v names =>
    have hthreshold : IsThresholdOf (.hThr v) u := ⟨v, rfl, names⟩
    constructor <;> simp [hthreshold]

/-! ### The registers of the block -/

/-- From `s` to `t` only the active mask, the active count and the waiter's valid bit may differ in the block. -/
def SyncOnly (s t : State) : Prop :=
  t.block = { s.block with activeMask := t.activeMask, activeCount := t.activeCount, waiterValid := t.waiterValid }

theorem SyncOnly.refl (s : State) : SyncOnly s s := rfl

theorem SyncOnly.trans (h : SyncOnly s t) (h' : SyncOnly t r) : SyncOnly s r := by
  unfold SyncOnly at *
  rw [h', h]

theorem SyncOnly.retire (s : State) (u : Nat) : SyncOnly s (s.retire u) := by
  obtain ⟨-, -, -, -, hid, hcreated, hsig, hstate, hmask, hunit, hctx, -⟩ := s.retire_frame u
  simp [SyncOnly, State.block, hid, hcreated, hsig, hstate, hmask, hunit, hctx]

theorem SyncOnly.halt_retire (s : State) (u : Nat) : SyncOnly s ((s.modUnit u UnitState.channelHalt).retire u) :=
  .trans (State.block_modUnit s u _) (.retire _ u)

theorem SyncOnly.stopAll (s : State) (m : Mask) : SyncOnly s (s.stopAll m) := by
  refine State.stopAll_induct (.refl s) fun t u _ ht => ?_
  obtain ⟨-, h⟩ | ⟨-, -, h⟩ := State.stopUnit_cases m t u <;> rw [h]
  · exact ht
  · exact ht.trans (.halt_retire t u)

/-- H_END writes the Synchronization State and the context-switch pulse only (R197, R200). -/
theorem State.block_complete (s : State) (u : Nat) : (s.complete u).block =
    { s.block with
      activeMask := (s.complete u).activeMask
      activeCount := (s.complete u).activeCount
      waiterValid := (s.complete u).waiterValid
      ctxSwitchReq := (s.complete u).ctxSwitchReq } := by
  have hretire := SyncOnly.halt_retire s u
  have hctx : ((s.modUnit u UnitState.channelHalt).retire u).ctxSwitchReq = s.ctxSwitchReq :=
    congrArg Block.ctxSwitchReq hretire
  obtain ⟨-, h⟩ | ⟨-, -, h⟩ | ⟨-, -, h⟩ := s.complete_cases u <;> rw [h]
  · rfl
  · rw [hctx]
    exact hretire
  · exact congrArg (fun b => { b with ctxSwitchReq := true }) hretire

/-- Every register of the block that differs in `b` is written by an operation R52 lists for it. -/
structure BlockOwners (s : State) (i : Instr) (b : Block) : Prop where
  workerCreated : b.workerCreated ≠ s.workerCreated → ∃ a c, i = .setup a c
  sync : (b.activeMask ≠ s.activeMask ∨ b.activeCount ≠ s.activeCount ∨ b.waiterValid ≠ s.waiterValid) →
    (∃ m c, i = .start m c) ∨ (∃ m, i = .stop m) ∨ ∃ v, i = .hEnd v
  waiterId : b.waiterId ≠ s.waiterId → ∃ m c, i = .start m c
  loop : (b.wkState ≠ s.wkState ∨ b.wkMask ≠ s.wkMask ∨ b.wkUnit ≠ s.wkUnit) →
    i = .wkTake ∨ i = .wkNext ∨ i = .wkArm
  workerSig : b.workerSig ≠ s.workerSig → (∃ m c, i = .start m c) ∨ (∃ v, i = .hThr v) ∨ i = .wkTake
  ctxSwitchReq : b.ctxSwitchReq ≠ s.ctxSwitchReq → ∃ v, i = .hEnd v

theorem BlockUpdate.owners (h : BlockUpdate s i r) : BlockOwners s i r.block := by
  cases h with
  | stay => constructor <;> simp [State.block]
  | claim => constructor <;> simp [State.block]
  | begin _ _ => constructor <;> simp [State.block, State.begin, State.driveDirections, State.post]
  | @stop m =>
    rw [SyncOnly.stopAll s m]
    constructor <;> simp [State.block]
  | take _ => constructor <;> simp [State.block]
  | @leaveFill u _ _ =>
    obtain ⟨n, -, h⟩ | ⟨-, h⟩ := s.leaveFill_cases u <;> rw [h] <;> constructor <;> simp [State.block]
  | @leaveArm u _ _ =>
    obtain ⟨n, -, h⟩ | ⟨-, h⟩ := s.leaveArm_cases u <;> rw [h] <;> constructor <;> simp [State.block]
  | post _ => constructor <;> simp [State.block, State.post]
  | @complete v =>
    rw [s.block_complete v.toNat]
    constructor <;> simp [State.block]

theorem exec_blockOwners (h : exec i s = .next t) : BlockOwners s i t.block := by
  obtain ⟨r, hr, hb⟩ := exec_block h
  exact hb ▸ hr.owners

/-- Settles O48, by the owners of a unit's registers and of the block's. -/
theorem registersAreWrittenOnlyByTheirOwners : Obligations.RegistersAreWrittenOnlyByTheirOwners := by
  intro s t i u h
  have hu := (exec_unit h u).owners
  have hb := exec_blockOwners h
  refine ⟨?_, hu.configured, hu.train, hu.stepsRemaining, hu.pendingTicks, hu.motionCalls, hu.endEmitted, hu.head,
    hu.ring, hu.tail, hu.hwOffset, hu.win, hu.armed, hu.fetch, hu.txAvail, hu.thrPending, hu.endPending, hu.stepOut,
    hu.trace, hu.dirOut, hb.sync, hb.waiterId, hb.loop, hb.workerSig, hb.ctxSwitchReq⟩
  rintro (hcfg | hsetup | hcreated)
  · exact hu.config (.inl hcfg)
  · exact hu.config (.inr hsetup)
  · exact hb.workerCreated hcreated

/-- Settles O32: with the latch set and the unit unarmed, H_THR is the clearing of that latch. -/
theorem hThrOfAnUnarmedUnitOnlyClearsItsLatch : Obligations.HThrOfAnUnarmedUnitOnlyClearsItsLatch := by
  intro s u hpending hunarmed
  have hexec : exec (.hThr u) s = .next (s.clearThreshold u.toNat) := by
    simp [exec, execHThr, hpending, hunarmed]
  rw [hexec]
  rfl

end Sys2Proof.Machine
end

section
/-! The invariant of the worker's registers (R47, R153, R157, R164, R212) is kept by every step (O43). -/

namespace Sys2Proof.Machine

variable {s t r : State} {i : Instr} {n u : Nat} {m m' : Mask}

/-! ### Masks that name only existing units -/

theorem MaskIn.zero (n : Nat) : MaskIn 0 n := fun _ _ => BitVec.getLsbD_zero

theorem MaskIn.or (h : MaskIn m n) (h' : MaskIn m' n) : MaskIn (m ||| m') n := fun i hi => by
  rw [BitVec.getLsbD_or, h i hi, h' i hi, Bool.or_false]

theorem MaskIn.clear (h : MaskIn m n) (u : Nat) : MaskIn (m &&& ~~~ unitBit u) n := fun i hi => by
  rw [getLsbD_clear, h i hi, Bool.false_and]

theorem MaskIn.unitBit (hu : u < n) : MaskIn (unitBit u) n := fun i hi => by
  rw [getLsbD_unitBit, decide_eq_false (by omega : ¬ i = u), Bool.and_false]

/-- R212's test: a mask with no bit at or above NSTEP names only existing units. -/
theorem MaskIn.of_beyond (h : beyond m n = 0) : MaskIn m n := fun i hi => by
  have hbit : (beyond m n).getLsbD (i - n) = m.getLsbD i := by
    rw [beyond, BitVec.getLsbD_ushiftRight, Nat.add_sub_cancel' hi]
  rw [← hbit, h]
  exact BitVec.getLsbD_zero

/-! ### The part of the invariant that reads the block's registers only -/

/-- The worker's registers and the active mask agree with `n` units and with the worker's position in its loop. -/
structure WorkerRegs (n : Nat) (b : Block) : Prop where
  active : MaskIn b.activeMask n
  signal : MaskIn b.workerSig n
  taken : MaskIn b.wkMask n
  serves : b.wkState = .wait ↔ b.wkUnit = none
  served : ∀ u, b.wkUnit = some u → b.wkMask.getLsbD u = true

theorem workerInv_iff : WorkerInv s ↔
    s.nstep ≤ Config.maxUnits ∧ WorkerRegs s.nstep s.block ∧
      ∀ u, (s.unit u).setup = true → s.workerCreated = true :=
  ⟨fun h => ⟨h.nstepLe, ⟨h.active, h.signal, h.taken, h.serves, h.served⟩, h.created⟩,
   fun ⟨hle, h, hcreated⟩ => ⟨hle, h.active, h.signal, h.taken, h.serves, h.served, hcreated⟩⟩

/-- A STOP and an H_END take bits from the active mask and touch none of the worker's registers. -/
theorem WorkerRegs.retire (h : WorkerRegs n s.block) (u : Nat) : WorkerRegs n (s.retire u).block := by
  obtain ⟨-, -, hmask, -⟩ := s.retire_frame u
  rw [SyncOnly.retire s u, hmask]
  exact ⟨h.active.clear u, h.signal, h.taken, h.serves, h.served⟩

theorem WorkerRegs.stopAll (h : WorkerRegs n s.block) (m : Mask) : WorkerRegs n (s.stopAll m).block := by
  refine State.stopAll_induct (P := fun t => WorkerRegs n t.block) h fun t u _ ht => ?_
  obtain ⟨-, h⟩ | ⟨-, -, h⟩ := State.stopUnit_cases m t u <;> rw [h]
  · exact ht
  · exact WorkerRegs.retire (s := t.modUnit u UnitState.channelHalt) ht u

theorem WorkerRegs.complete (h : WorkerRegs n s.block) (u : Nat) : WorkerRegs n (s.complete u).block := by
  have hretire := WorkerRegs.retire (s := s.modUnit u UnitState.channelHalt) h u
  obtain ⟨-, h'⟩ | ⟨-, -, h'⟩ | ⟨-, -, h'⟩ := s.complete_cases u <;> rw [h']
  · exact h
  · exact hretire
  · exact ⟨hretire.active, hretire.signal, hretire.taken, hretire.serves, hretire.served⟩

/-- WK_TAKE serves the lowest unit of the mask it takes, and that mask has one (R157). -/
theorem WorkerRegs.take (h : WorkerRegs n s.block) (htake : s.canTake = true) : WorkerRegs n
    { s with wkMask := s.workerSig, workerSig := 0, wkUnit := lowbit s.workerSig, wkState := .fill : State }.block := by
  have hsig : s.workerSig ≠ 0 := by simp [State.canTake] at htake; exact htake.2
  obtain ⟨v, hlow, hv⟩ := lowbit_spec hsig
  refine ⟨h.active, .zero n, h.signal, ?_, ?_⟩
  · simp [State.block, hlow]
  · intro u hu
    obtain rfl : v = u := by simpa [State.block, hlow] using hu
    exact hv

/-- Going on to the next unit of the mask keeps the worker's position (R159, R160). -/
theorem WorkerRegs.next {j k : Nat} (h : WorkerRegs n s.block) (hu : s.wkUnit = some j)
    (hnext : nextbit s.wkMask j = some k) : WorkerRegs n { s with wkUnit := some k : State }.block := by
  have hbusy : s.wkState ≠ .wait := fun hwait => by simpa [State.block, hu] using h.serves.1 hwait
  refine ⟨h.active, h.signal, h.taken, ?_, ?_⟩
  · simp [State.block, hbusy]
  · intro u hu
    obtain rfl : k = u := by simpa [State.block] using hu
    exact (nextbit_spec hnext).2

/-- WK_NEXT goes to another unit of the mask, which is not empty since it holds the unit served (R159). -/
theorem WorkerRegs.leaveFill (h : WorkerRegs n s.block) (hu : s.wkUnit = some u) :
    WorkerRegs n (s.leaveFill u).block := by
  obtain ⟨k, hk, h'⟩ | ⟨-, h'⟩ := s.leaveFill_cases u <;> rw [h']
  · exact h.next hu hk
  · have hmask : s.wkMask ≠ 0 := fun hzero => by simpa [State.block, hzero] using h.served u hu
    obtain ⟨v, hlow, hv⟩ := lowbit_spec hmask
    refine ⟨h.active, h.signal, h.taken, ?_, ?_⟩
    · simp [State.block, hlow]
    · intro u hu
      obtain rfl : v = u := by simpa [State.block, hlow] using hu
      exact hv

/-- WK_ARM goes to another unit of the mask, or back to WAIT serving none (R160). -/
theorem WorkerRegs.leaveArm (h : WorkerRegs n s.block) (hu : s.wkUnit = some u) :
    WorkerRegs n (s.leaveArm u).block := by
  obtain ⟨k, hk, h'⟩ | ⟨-, h'⟩ := s.leaveArm_cases u <;> rw [h']
  · exact h.next hu hk
  · exact ⟨h.active, h.signal, h.taken, by simp [State.block], by simp [State.block]⟩

/-- A pending latch belongs to an existing unit. -/
theorem State.lt_nstep_of_thrPending (h : (s.unit u).thrPending = true) : u < s.nstep :=
  State.lt_nstep_of_unit_ne fun hreset => by simp [hreset, UnitState.reset] at h

theorem WorkerRegs.blockUpdate (h : WorkerRegs s.nstep s.block) (hr : BlockUpdate s i r) :
    WorkerRegs s.nstep r.block := by
  cases hr with
  | stay => exact h
  | claim => exact ⟨h.active, h.signal, h.taken, h.serves, h.served⟩
  | begin hin _ =>
    exact ⟨h.active.or (.of_beyond hin), h.signal.or (.of_beyond hin), h.taken, h.serves, h.served⟩
  | stop => exact h.stopAll _
  | take htake => exact h.take htake
  | leaveFill hu _ => exact h.leaveFill hu
  | leaveArm hu _ => exact h.leaveArm hu
  | post hthr =>
    exact ⟨h.active, h.signal.or (.unitBit (State.lt_nstep_of_thrPending hthr)), h.taken, h.serves, h.served⟩
  | complete => exact h.complete _

/-! ### The part that reads the registry -/

/-- A unit is set up by SETUP alone, which creates the worker with it (R164, R230). -/
theorem exec_created (hs : ∀ u, (s.unit u).setup = true → s.workerCreated = true) (h : exec i s = .next t) (u : Nat)
    (hu : (t.unit u).setup = true) : t.workerCreated = true := by
  by_cases hi : ∃ a b, i = .setup a b
  · obtain ⟨a, b, rfl⟩ := hi
    obtain ⟨e, rfl⟩ | ⟨v, -, -, -, -, -, rfl⟩ := execSetup_next h
    · exact hs u hu
    · rfl
  · have hsetup : (t.unit u).setup = (s.unit u).setup :=
      not_not.1 fun hne => hi ((exec_unit h u).owners.config (.inr hne))
    have hcreated : t.workerCreated = s.workerCreated :=
      not_not.1 fun hne => hi ((exec_blockOwners h).workerCreated hne)
    rw [hcreated]
    exact hs u (hsetup ▸ hu)

theorem exec_workerInv (hs : WorkerInv s) (h : exec i s = .next t) : WorkerInv t := by
  obtain ⟨hle, hregs, hcreated⟩ := workerInv_iff.1 hs
  have hn : t.nstep = s.nstep := (exec_marksKept h).nstep
  obtain ⟨r, hr, hb⟩ := exec_block h
  refine workerInv_iff.2 ⟨hn ▸ hle, ?_, exec_created hcreated h⟩
  rw [hn, hb]
  exact hregs.blockUpdate hr

/-- Settles O43: the start of a step and a refusal leave the registers it reads alone, and every operation keeps the
invariant. -/
theorem everyStepKeepsTheWorkerInvariant : Obligations.EveryStepKeepsTheWorkerInvariant := by
  intro s t hs h
  exact step_keeps
    (fun _ _ _ hs => ⟨hs.nstepLe, hs.active, hs.signal, hs.taken, hs.serves, hs.served, hs.created⟩)
    (fun _ hs => ⟨hs.nstepLe, hs.active, hs.signal, hs.taken, hs.serves, hs.served, hs.created⟩) exec_workerInv hs h

end Sys2Proof.Machine
end

section
/-! The four invariants hold after reset (R53, R291; O41). -/

namespace Sys2Proof.Machine

variable {p : Params} {n : Nat}

@[simp] theorem State.nstep_resetWith (p : Params) (n : Nat) : (State.resetWith p n).nstep = n :=
  List.length_replicate

@[simp] theorem State.unit_resetWith (p : Params) (n u : Nat) : (State.resetWith p n).unit u = UnitState.reset := by
  by_cases hu : u < n
  · simp [State.unit, State.resetWith, List.getD_eq_getElem?_getD, hu]
  · exact State.unit_of_ge (by rw [State.nstep_resetWith]; omega)

theorem Params.ringCap_pos (p : Params) : 0 < p.ringCap := Nat.two_pow_pos p.idxw

theorem Params.ok_nstep_le (h : p.ok n = true) : n ≤ Config.maxUnits := by
  simp only [Params.ok, Bool.and_eq_true, decide_eq_true_eq] at h
  obtain ⟨⟨⟨⟨⟨⟨-, hle⟩, -⟩, -⟩, -⟩, -⟩, -⟩ := h
  exact hle

theorem Params.ok_winSize_pos (h : p.ok n = true) : 0 < p.winSize := by
  simp only [Params.ok, Bool.and_eq_true, decide_eq_true_eq] at h
  obtain ⟨⟨⟨⟨⟨⟨-, -⟩, hhalf⟩, -⟩, -⟩, -⟩, -⟩ := h
  unfold Params.winSize
  omega

theorem SyncInv.resetWith (p : Params) (n : Nat) : SyncInv (State.resetWith p n) where
  count := (by decide : 0 = popcount 0)
  waiter := by simp [State.resetWith]

theorem WorkerInv.resetWith (h : p.ok n = true) : WorkerInv (State.resetWith p n) where
  nstepLe := by rw [State.nstep_resetWith]; exact Params.ok_nstep_le h
  active := .zero _
  signal := .zero _
  taken := .zero _
  serves := by simp [State.resetWith]
  served := by simp [State.resetWith]
  created := by simp [UnitState.reset]

/-- A unit at reset has an empty ring, an empty window and a channel that does not run. -/
theorem UnitInv.reset (h : p.ok n = true) : UnitInv p UnitState.reset where
  pointers := ⟨p.ringCap_pos, p.ringCap_pos, Params.ok_winSize_pos h, Params.ok_winSize_pos h, Nat.zero_le _⟩
  occupancy := by simp [Occupancy, UnitState.reset]
  refillAt := by simp [UnitState.reset]
  runsArmed := by simp [UnitState.reset]
  ringWritten := by simp [UnitState.reset, UnitState.outstanding]
  winWritten := by simp [UnitState.reset]
  pending := by simp [UnitState.reset]
  endLast := by simp [UnitState.reset]

theorem ChannelInv.resetWith (h : p.ok n = true) : ChannelInv (State.resetWith p n) where
  params := by rw [State.paramsOk, State.nstep_resetWith]; exact h
  units u _ := by rw [State.unit_resetWith]; exact UnitInv.reset h

theorem MemoryInv.resetWith (p : Params) (n : Nat) : MemoryInv (State.resetWith p n) := fun u _ => by
  rw [State.unit_resetWith]
  exact ⟨.nil _, .nil _⟩

/-- Settles O41, invariant by invariant. -/
theorem invariantsHoldAtReset : Obligations.InvariantsHoldAtReset := fun p n h =>
  ⟨.resetWith p n, .resetWith h, .resetWith h, .resetWith p n⟩

end Sys2Proof.Machine
end

section
/-! The ring and the window of a unit as lists of descriptors: what the ring's count says of its pointers, and how a push, a
take from the front, an output and a refill act on the two lists (R39, R85, R150, R160, R181, R196). -/

namespace Sys2Proof.Machine

variable {p : Params} {x : UnitState} {k n : Nat} {w : Desc} {ws q : List Desc}

/-! ### Runs of descriptors, joined -/

/-- Two runs that follow each other are one. -/
theorem Memory.readMany_append {m : Memory} {cap : Nat} {b : List Desc} : ∀ {j start : Nat} {a : List Desc},
    Memory.readMany m cap start j = some a → Memory.readMany m cap (start + j) k = some b →
      Memory.readMany m cap start (j + k) = some (a ++ b)
  | 0, start, a, ha, hb => by
    obtain rfl : [] = a := by simpa [Memory.readMany] using ha
    simpa using hb
  | j + 1, start, a, ha, hb => by
    rw [Nat.add_right_comm]
    simp only [Memory.readMany] at ha ⊢
    split at ha
    · next w ws hw hws =>
      obtain rfl := Option.some.inj ha
      rw [hw, Memory.readMany_append hws (by rwa [show start + 1 + j = start + (j + 1) by omega])]
      rfl
    · cases ha

/-- A run reads back in full exactly when every descriptor of it has been written. -/
theorem Memory.written_iff {m : Memory} {cap start : Nat} :
    (∀ i, i < k → (Memory.readWord m ((start + i) % cap)).isSome) ↔ ∃ ws, Memory.readMany m cap start k = some ws := by
  refine ⟨Memory.readMany_isSome, fun ⟨ws, hws⟩ i hi => ?_⟩
  rw [Memory.readMany_get hws i (by rwa [Memory.readMany_length hws])]
  rfl

/-- Storing a run right behind a stored one extends it, as long as both fit the space. -/
theorem Memory.readMany_writeMany_behind {m : Memory} {cap start j : Nat}
    (hq : Memory.readMany m cap start j = some q) (hfit : j + ws.length ≤ cap) :
    Memory.readMany (Memory.writeMany m cap ((start + j) % cap) ws) cap start (j + ws.length) = some (q ++ ws) := by
  refine Memory.readMany_append ?_ ?_
  · rw [← hq]
    refine Memory.readMany_congr fun i hi => Memory.readWord_writeMany_ne fun l hl heq => ?_
    rw [Nat.mod_add_mod, Nat.add_assoc] at heq
    have := mod_add_inj (by omega) (by omega) heq
    omega
  · rw [← Memory.readMany_mod]
    exact Memory.readMany_writeMany m _ (by omega)

/-! ### The ring's pointers -/

theorem UnitState.outstanding_lt (p : Params) (x : UnitState) : x.outstanding p < p.ringCap :=
  Nat.mod_lt _ p.ringCap_pos

/-- The ring ends where its count, taken from the tail, ends. -/
theorem PointersIn.tail_add_outstanding (hx : PointersIn p x) : (x.tail + x.outstanding p) % p.ringCap = x.head := by
  have htail := hx.tail
  rw [UnitState.outstanding, Nat.add_mod_mod, Nat.add_sub_cancel' (by omega), Nat.add_mod_right,
    Nat.mod_eq_of_lt hx.head]

/-- The count is the only number below C with that property. -/
theorem PointersIn.outstanding_eq (hx : PointersIn p x) (hn : n < p.ringCap)
    (h : (x.tail + n) % p.ringCap = x.head) : x.outstanding p = n :=
  mod_add_inj (x.outstanding_lt p) hn (hx.tail_add_outstanding.trans h.symm)

/-- A ring with room counts at most C - 2 descriptors (R39). -/
theorem PointersIn.outstanding_of_room (hx : PointersIn p x) (hroom : (x.head + 1) % p.ringCap ≠ x.tail) :
    x.outstanding p + 1 < p.ringCap := by
  have hlt := x.outstanding_lt p
  refine Nat.lt_of_le_of_ne hlt fun hfull => hroom ?_
  rw [← hx.tail_add_outstanding, Nat.mod_add_mod, Nat.add_assoc, hfull, Nat.add_mod_right, Nat.mod_eq_of_lt hx.tail]

/-! ### The ring as a queue -/

/-- The ring of a unit as the list of its descriptors, oldest first. -/
def UnitState.queue (p : Params) (x : UnitState) : Option (List Desc) :=
  Memory.readMany x.ring p.ringCap x.tail (x.outstanding p)

theorem State.ringContents_eq (s : State) (u : Nat) : s.ringContents u = (s.unit u).queue s.params := rfl

/-- The queue depends on the ring and its two pointers only. -/
theorem UnitState.queue_congr {y : UnitState} (hring : y.ring = x.ring) (hhead : y.head = x.head)
    (htail : y.tail = x.tail) : y.queue p = x.queue p := by
  simp only [UnitState.queue, UnitState.outstanding, hring, hhead, htail]

theorem UnitState.queue_length (h : x.queue p = some q) : q.length = x.outstanding p := Memory.readMany_length h

/-- The unit after the `k` oldest descriptors of its ring were taken (R151). -/
def UnitState.take (p : Params) (k : Nat) (x : UnitState) : UnitState := { x with tail := (x.tail + k) % p.ringCap }

theorem PointersIn.take (hx : PointersIn p x) (k : Nat) : PointersIn p (x.take p k) :=
  ⟨hx.head, Nat.mod_lt _ p.ringCap_pos, hx.hwOffset, hx.txPos, hx.txAvail⟩

theorem PointersIn.push (hx : PointersIn p x) (w : Desc) : PointersIn p (x.push p w) :=
  ⟨Nat.mod_lt _ p.ringCap_pos, hx.tail, hx.hwOffset, hx.txPos, hx.txAvail⟩

theorem PointersIn.outstanding_take (hx : PointersIn p x) (hk : k ≤ x.outstanding p) :
    (x.take p k).outstanding p = x.outstanding p - k := by
  have hlt := x.outstanding_lt p
  refine (hx.take k).outstanding_eq (by omega) ?_
  calc ((x.tail + k) % p.ringCap + (x.outstanding p - k)) % p.ringCap
      = (x.tail + x.outstanding p) % p.ringCap := by
        rw [Nat.mod_add_mod, Nat.add_assoc, Nat.add_sub_cancel' hk]
    _ = x.head := hx.tail_add_outstanding

theorem PointersIn.outstanding_push (hx : PointersIn p x) (hroom : (x.head + 1) % p.ringCap ≠ x.tail) (w : Desc) :
    (x.push p w).outstanding p = x.outstanding p + 1 := by
  refine (hx.push w).outstanding_eq (hx.outstanding_of_room hroom) ?_
  calc (x.tail + (x.outstanding p + 1)) % p.ringCap
      = ((x.tail + x.outstanding p) % p.ringCap + 1) % p.ringCap := by rw [Nat.mod_add_mod, Nat.add_assoc]
    _ = (x.head + 1) % p.ringCap := by rw [hx.tail_add_outstanding]

/-- Taking from the front drops the descriptors taken. -/
theorem PointersIn.queue_take (hx : PointersIn p x) (hq : x.queue p = some q) (hk : k ≤ x.outstanding p) :
    (x.take p k).queue p = some (q.drop k) := by
  unfold UnitState.queue at hq ⊢
  rw [hx.outstanding_take hk]
  rw [← Nat.add_sub_cancel' hk] at hq
  exact (Memory.readMany_mod _ _ _ _).trans (Memory.readMany_add hq).2

/-- The descriptors taken are the front of the queue. -/
theorem UnitState.queue_oldest (hq : x.queue p = some q) (hk : k ≤ x.outstanding p) :
    Memory.readMany x.ring p.ringCap x.tail k = some (q.take k) := by
  unfold UnitState.queue at hq
  rw [← Nat.add_sub_cancel' hk] at hq
  exact (Memory.readMany_add hq).1

/-- A push into a ring with room appends at the back. -/
theorem PointersIn.queue_push (hx : PointersIn p x) (hroom : (x.head + 1) % p.ringCap ≠ x.tail)
    (hq : x.queue p = some q) (w : Desc) : (x.push p w).queue p = some (q ++ [w]) := by
  have hend := hx.tail_add_outstanding
  have hstored := Memory.readMany_writeMany_behind (ws := [w]) hq (hx.outstanding_of_room hroom).le
  rw [hend] at hstored
  rw [UnitState.queue, hx.outstanding_push hroom]
  exact hstored

/-- A ring whose pointers meet is an empty queue. -/
theorem UnitState.queue_of_empty (h : x.head = x.tail) : x.queue p = some [] := by
  have hzero : x.outstanding p = 0 := by rw [UnitState.outstanding, h, Nat.add_sub_cancel_left, Nat.mod_self]
  rw [UnitState.queue, hzero]
  rfl

/-! ### The window as a queue -/

/-- The descriptors of the window from the fetch position on. -/
def UnitState.window (p : Params) (x : UnitState) : Option (List Desc) :=
  Memory.readMany x.win p.winSize x.txPos x.txAvail

/-- Refilling the window as it acts on the unit (R196). -/
def UnitState.refill (x : UnitState) (p : Params) (ws : List Desc) : UnitState :=
  { x with
    win := Memory.writeMany x.win p.winSize x.hwOffset ws
    tail := (x.tail + ws.length) % p.ringCap
    hwOffset := (x.hwOffset + ws.length) % p.winSize
    txAvail := x.txAvail + ws.length
    thrPending := false }

/-- Arming the channel with a first window as it acts on the unit (R160). -/
def UnitState.arm (x : UnitState) (p : Params) (ws : List Desc) : UnitState :=
  { x.channelArm ws.length with
    win := Memory.writeMany x.win p.winSize 0 ws
    tail := (x.tail + ws.length) % p.ringCap
    hwOffset := ws.length % p.winSize
    armed := true }

theorem UnitState.queue_output (x : UnitState) (v : Desc) : (x.output p v).queue p = x.queue p :=
  UnitState.queue_congr rfl rfl rfl

theorem UnitState.ring_output (x : UnitState) (v : Desc) : (x.output p v).ring = x.ring := rfl

theorem UnitState.win_output (x : UnitState) (v : Desc) : (x.output p v).win = x.win := rfl

/-- The output of a descriptor takes the front of the window. -/
theorem UnitState.window_output (hx : x.window p = some (w :: ws)) (v : Desc) :
    (x.output p v).window p = some ws := by
  have hlen : ws.length + 1 = x.txAvail := Memory.readMany_length hx
  unfold UnitState.window at hx
  rw [← hlen, Nat.add_comm] at hx
  have hrest := (Memory.readMany_add hx).2
  rw [UnitState.window]
  rw [show (x.output p v).txAvail = ws.length from (by simp [UnitState.output]; omega)]
  exact (Memory.readMany_mod _ _ _ _).trans hrest

/-- A refill that fits appends to the window, where the refill position is its end (R28). -/
theorem UnitState.window_refill (hx : x.window p = some q) (hat : x.hwOffset = (x.txPos + x.txAvail) % p.winSize)
    (hfit : x.txAvail + ws.length ≤ p.winSize) : (x.refill p ws).window p = some (q ++ ws) := by
  have hstored := Memory.readMany_writeMany_behind hx hfit
  rw [← hat] at hstored
  exact hstored

theorem UnitState.window_arm (hfit : ws.length ≤ p.winSize) : (x.arm p ws).window p = some ws :=
  Memory.readMany_writeMany _ _ hfit

end Sys2Proof.Machine
end

section
/-! What each operation does to the ring, the window and the channel of a unit, with the values it stores and the enabling
condition it was taken under: the updates of `UnitUpdate` told apart as the ring and window discipline needs. -/

namespace Sys2Proof.Machine

variable {s t : State} {u : Nat}

/-! ### What the enabling conditions say -/

theorem State.not_full_of_canFill (h : s.canFill u = true) : s.full u = false := by
  simp only [State.canFill, Bool.and_eq_true, Bool.not_eq_true'] at h
  exact h.2

theorem State.canEncFirst_iff : s.canEncFirst u = true ↔
    s.canFill u = true ∧ (s.unit u).pendingTicks = 0 ∧ (s.unit u).stepsRemaining ≠ 0 := by
  simp [State.canEncFirst, and_assoc]

theorem State.canEncCont_iff : s.canEncCont u = true ↔ s.canFill u = true ∧ (s.unit u).pendingTicks ≠ 0 := by
  simp [State.canEncCont]

theorem State.canEncEnd_iff : s.canEncEnd u = true ↔ s.canFill u = true ∧ (s.unit u).pendingTicks = 0 ∧
    (s.unit u).stepsRemaining = 0 ∧ (s.unit u).endEmitted = false := by
  simp [State.canEncEnd, and_assoc]

theorem State.txReady_iff : s.txReady u = true ↔
    (s.unit u).txRun = true ∧ 0 < (s.unit u).txAvail ∧ (s.unit u).txDead = false := by
  simp [State.txReady, and_assoc]

theorem State.txRun_of_fullyIdle (h : s.fullyIdle u = true) : (s.unit u).txRun = false := by
  simp only [State.fullyIdle, Bool.and_eq_true, Bool.not_eq_true'] at h
  exact h.1.1.2

/-! ### The updates of one unit -/

theorem State.refill_eq (s : State) (u : Nat) (ws : List Desc) :
    s.refill u ws = s.modUnit u (·.refill s.params ws) := rfl

theorem State.armUnit_eq (s : State) (u : Nat) (ws : List Desc) :
    s.armUnit u ws = s.modUnit u (·.arm s.params ws) := rfl

/-- What a train still owes is consistent: a partly encoded step is not counted yet, and the marker is out only when
nothing else is owed (R134 to R136). -/
def Owed (steps pending : BitVec 32) (ended : Bool) : Prop :=
  (pending ≠ 0 → steps ≠ 0) ∧ (ended = true → steps = 0 ∧ pending = 0)

/-- What an operation can do to the ring, the window and the channel of unit u: the unit after it is one of these, and the
operation is the one named, taken under the condition given. -/
inductive ChannelUpdate (s : State) (u : Nat) : Instr → UnitState → Prop where
  | aside {i cfg setup calls dead dirOut} : ChannelUpdate s u i
      { s.unit u with cfg := cfg, setup := setup, motionCalls := calls, txDead := dead, dirOut := dirOut }
  | load {i dir motion n} (move : IsMoveOf i u) (halted : (s.unit u).txRun = false) : ChannelUpdate s u i
      { s.unit u with
        direction := dir, motion := motion, motionCalls := 0, stepsRemaining := n, head := 0, tail := 0,
        pendingTicks := 0, hwOffset := 0, endEmitted := false, armed := false }
  | halt {i} : ChannelUpdate s u i (s.unit u).channelHalt
  | push {i w calls steps pending ended} (encode : IsEncodeOf i u) (room : s.full u = false)
      (owed : Owed (s.unit u).stepsRemaining (s.unit u).pendingTicks (s.unit u).endEmitted → Owed steps pending ended) :
      ChannelUpdate s u i
        { (s.unit u).push s.params w with
          motionCalls := calls, stepsRemaining := steps, pendingTicks := pending, endEmitted := ended }
  | arm {i ws} (arms : IsArmOf s i u)
      (oldest : s.ringOldest u (min (s.count u) s.params.winSize) = some ws) :
      ChannelUpdate s u i ((s.unit u).arm s.params ws)
  | output {i w} (ready : s.txReady u = true) : ChannelUpdate s u i ((s.unit u).output s.params w)
  | endTrain {i} : ChannelUpdate s u i { s.unit u with txRun := false, stepOut := false, endPending := true }
  | refill {i ws} (threshold : IsThresholdOf i u) (latched : (s.unit u).thrPending = true)
      (oldest : s.ringOldest u (min s.params.half (s.count u)) = some ws) :
      ChannelUpdate s u i ((s.unit u).refill s.params ws)
  | clear {i} : ChannelUpdate s u i { s.unit u with thrPending := false }

variable {i : Instr} {y : UnitState}

theorem ChannelUpdate.stay : ChannelUpdate s u i (s.unit u) := .aside

theorem ChannelUpdate.modUnit {v : Nat} {f : UnitState → UnitState}
    (h : v = u → ChannelUpdate s u i (f (s.unit u))) : ChannelUpdate s u i ((s.modUnit v f).unit u) := by
  rw [State.unit_modUnit]
  split
  · next huv =>
    obtain ⟨rfl, -⟩ := huv
    exact h rfl
  · exact .stay

/-- An operation that is no MOVE, no encoder step, no arm, no threshold service and no transmitter step of the unit leaves
its channel alone or halts it. -/
theorem UnitUpdate.channelUpdate (h : UnitUpdate s u i y) (hmove : ¬ IsMoveOf i u) (hencode : ¬ IsEncodeOf i u)
    (harm : ¬ IsArmOf s i u) (hthreshold : ¬ IsThresholdOf i u) (htx : ¬ IsTxOf s i u) : ChannelUpdate s u i y := by
  cases h with
  | stay => exact .stay
  | claim free => exact .aside
  | load names => exact absurd ⟨_, _, _, rfl, names⟩ hmove
  | drive names => exact .aside
  | halt halts => exact .halt
  | call names => exact .aside
  | first names => exact absurd ⟨_, .inl rfl, names⟩ hencode
  | more names => exact absurd ⟨_, .inr (.inl rfl), names⟩ hencode
  | last names => exact absurd ⟨_, .inr (.inr rfl), names⟩ hencode
  | arm serves unarmed => exact absurd ⟨rfl, serves⟩ harm
  | die tx => exact .aside
  | output tx => exact absurd tx htx
  | endTrain tx => exact absurd tx htx
  | refill names armed => exact absurd ⟨_, rfl, names⟩ hthreshold
  | clear names => exact .clear

theorem ChannelUpdate.consume {v : Nat} (w : Desc) (hready : s.txReady v = true) :
    ChannelUpdate s u i ((s.consume v w).unit u) := by
  by_cases hmarker : w = marker
  · rw [hmarker, State.consume_marker]
    exact .modUnit fun _ => .endTrain
  · rw [State.consume_of_ne hmarker]
    cases hzero : bothZero w
    · rw [State.transmit_valid hzero]
      exact .modUnit fun hv => .output (hv ▸ hready)
    · rw [State.transmit_bad hzero, State.unit_faultBadDescriptor]
      exact .modUnit fun _ => .aside

/-- A step of a unit that has steps to go stays owed while ticks of it are left, whatever their number (R136). -/
theorem Owed.carry {steps pending : BitVec 32} {ended : Bool} {n : Nat} (hsteps : steps ≠ 0)
    (h : Owed steps pending ended) : Owed (if n = 0 then steps - 1 else steps) (BitVec.ofNat 32 n) ended := by
  refine ⟨fun hpending => ?_, fun hended => absurd (h.2 hended).1 hsteps⟩
  split
  · next hzero => exact absurd (by rw [hzero]; rfl) hpending
  · exact hsteps

theorem ChannelUpdate.encodeFirst {v : BitVec 8} {n : Nat} (h : s.canEncFirst v.toNat = true) :
    ChannelUpdate s u (.encFirst v) ((s.encodeFirst v.toNat n).unit u) := by
  obtain ⟨hfill, -, hsteps⟩ := State.canEncFirst_iff.1 h
  by_cases hover : Config.tickLimit ≤ n
  · rw [State.encodeFirst_overflow hover, State.unit_faultTickOverflow]
    exact .modUnit fun _ => .aside
  · by_cases hshort : n ≤ s.params.pulse
    · rw [State.encodeFirst_short hshort (by omega), State.unit_faultEncShort]
      exact .modUnit fun _ => .aside
    · rw [State.encodeFirst_modUnit (by omega) (by omega)]
      refine .modUnit fun hv => ?_
      subst hv
      exact .push ⟨v, .inl rfl, rfl⟩ (State.not_full_of_canFill hfill) (Owed.carry hsteps)

theorem ChannelUpdate.encodeCont {v : BitVec 8} {w : Desc} {n : Nat} (h : s.canEncCont v.toNat = true) :
    ChannelUpdate s u (.encCont v) (((s.ringPush v.toNat w).modUnit v.toNat fun x => x.carry n).unit u) := by
  obtain ⟨hfill, hpending⟩ := State.canEncCont_iff.1 h
  rw [State.ringPush_eq, State.modUnit_modUnit]
  refine .modUnit fun hv => ?_
  subst hv
  exact .push ⟨v, .inr (.inl rfl), rfl⟩ (State.not_full_of_canFill hfill) fun hx => hx.carry (hx.1 hpending)

theorem ChannelUpdate.encodeEnd {v : BitVec 8} {w : Desc} (h : s.canEncEnd v.toNat = true) :
    ChannelUpdate s u (.encEnd v)
      (((s.ringPush v.toNat w).modUnit v.toNat fun x => { x with endEmitted := true }).unit u) := by
  obtain ⟨hfill, hpending, hsteps, -⟩ := State.canEncEnd_iff.1 h
  rw [State.ringPush_eq, State.modUnit_modUnit]
  refine .modUnit fun hv => ?_
  subst hv
  exact .push ⟨v, .inr (.inr rfl), rfl⟩ (State.not_full_of_canFill hfill) fun hx => ⟨hx.1, fun _ => ⟨hsteps, hpending⟩⟩

/-! ### What an operation can do to a channel -/

theorem exec_channel (h : exec i s = .next t) (u : Nat) : ChannelUpdate s u i (t.unit u) := by
  cases i with
  | move v d n =>
    obtain ⟨e, rfl⟩ | rfl | ⟨-, -, hidle, rfl⟩ := execMove_next h
    · exact .stay
    · exact .stay
    · rw [State.unit_load]
      exact .modUnit fun hv => .load ⟨v, d, n, rfl, hv⟩ (hv ▸ State.txRun_of_fullyIdle hidle)
  | encFirst v =>
    obtain rfl | ⟨hfirst, rfl⟩ := execEncFirst_next h
    · exact .stay
    · exact .encodeFirst hfirst
  | encCont v =>
    obtain rfl | ⟨hcont, rfl⟩ := execEncCont_next h
    · exact .stay
    · exact .encodeCont hcont
  | encEnd v =>
    obtain rfl | ⟨hend, rfl⟩ := execEncEnd_next h
    · exact .stay
    · exact .encodeEnd hend
  | wkArm =>
    obtain rfl | ⟨v, hv, -, ⟨-, rfl⟩ | ⟨-, ws, hws, rfl⟩⟩ := execWkArm_next h
    · exact .stay
    · rw [State.unit_leaveArm]
      exact .stay
    · rw [State.unit_leaveArm, State.armUnit_eq]
      exact .modUnit fun huv => .arm ⟨rfl, huv ▸ hv⟩ (huv ▸ hws)
  | txDesc v =>
    obtain rfl | ⟨hready, w, -, hw, rfl⟩ := execTxDesc_next h
    · exact .stay
    · rw [← State.consume_of_ne hw]
      exact .consume w hready
  | txEnd v =>
    obtain rfl | ⟨hready, -, rfl⟩ := execTxEnd_next h
    · exact .stay
    · rw [← State.consume_marker]
      exact .consume marker hready
  | hThr v =>
    obtain rfl | ⟨hthr, ⟨-, ws, hws, rfl⟩ | ⟨-, rfl⟩⟩ := execHThr_next h
    · exact .stay
    · have hrefill : ChannelUpdate s u (.hThr v) ((s.refill v.toNat ws).unit u) :=
        .modUnit fun hv => .refill ⟨v, rfl, hv⟩ (hv ▸ hthr) (hv ▸ hws)
      split
      · exact hrefill
      · rw [State.unit_post]
        exact hrefill
    · exact ChannelUpdate.modUnit fun _ => .clear
  | descEnd =>
    obtain rfl | ⟨hready, rfl⟩ := execDescEnd_next h
    · exact .stay
    · exact .consume _ hready
  | descStep a b =>
    obtain rfl | ⟨hready, rfl⟩ := execDescStep_next h
    · exact .stay
    · exact .consume _ hready
  | descLow a b =>
    obtain rfl | ⟨hready, rfl⟩ := execDescLow_next h
    · exact .stay
    · exact .consume _ hready
  | setup | start | stop | wkTake | wkNext | hEnd =>
    exact (exec_unit h u).channelUpdate (by simp [IsMoveOf]) (by simp [IsEncodeOf]) (by simp [IsArmOf])
      (by simp [IsThresholdOf]) (by simp [IsTxOf])

end Sys2Proof.Machine
end

section
/-! The ring and window discipline of every unit (R78, R83, R86, R87) is kept by every step (O44); what it says of the window
at a threshold service (O46), and that under it no word is read before it was written (O47). -/

namespace Sys2Proof.Machine

variable {p : Params} {x y : UnitState} {w : Desc} {ws : List Desc} {s t : State} {i : Instr} {u : Nat} {f : Fault}

/-! ### The invariant read off the two lists -/

/-- The ring's descriptors have all been written: it is a queue (R78). -/
theorem UnitInv.exists_queue (hx : UnitInv p x) : ∃ q, x.queue p = some q := Memory.written_iff.1 hx.ringWritten

/-- So have those a running channel may fetch (R83). -/
theorem UnitInv.exists_window (hx : UnitInv p x) (hrun : x.txRun = true) : ∃ ws, x.window p = some ws :=
  Memory.written_iff.1 (hx.winWritten hrun)

theorem ChannelInv.winSize_pos (hs : ChannelInv s) : 0 < s.params.winSize := Params.ok_winSize_pos hs.params

/-! ### The updates of one unit keep it -/

theorem UnitInv.aside {cfg : UnitCfg} {setup dead dirOut : Bool} {calls : BitVec 32} (hx : UnitInv p x) :
    UnitInv p { x with cfg := cfg, setup := setup, motionCalls := calls, txDead := dead, dirOut := dirOut } := by
  obtain ⟨⟨hhead, htail, hoff, hpos, havail⟩, hocc, hat, harmed, hring, hwin, hpending, hend⟩ := hx
  exact ⟨⟨hhead, htail, hoff, hpos, havail⟩, hocc, hat, harmed, hring, hwin, hpending, hend⟩

/-- A MOVE finds the channel halted and leaves the ring empty (R235, R237). -/
theorem UnitInv.load {dir : Bool} {motion : Option Motion} {n : BitVec 32} (hx : UnitInv p x) (hW : 0 < p.winSize)
    (halted : x.txRun = false) : UnitInv p
      { x with
        direction := dir, motion := motion, motionCalls := 0, stepsRemaining := n, head := 0, tail := 0,
        pendingTicks := 0, hwOffset := 0, endEmitted := false, armed := false } where
  pointers := ⟨p.ringCap_pos, p.ringCap_pos, hW, hx.pointers.txPos, hx.pointers.txAvail⟩
  occupancy := hx.occupancy
  refillAt := by simp [halted]
  runsArmed := by simp [halted]
  ringWritten := Memory.written_iff.2 ⟨[], UnitState.queue_of_empty rfl⟩
  winWritten := by simp [halted]
  pending := by simp
  endLast := by simp

theorem UnitInv.halt (hx : UnitInv p x) (hW : 0 < p.winSize) : UnitInv p x.channelHalt where
  pointers := ⟨hx.pointers.head, hx.pointers.tail, hx.pointers.hwOffset, hW, Nat.zero_le _⟩
  occupancy := by simp [Occupancy]
  refillAt := by simp
  runsArmed := by simp
  ringWritten := hx.ringWritten
  winWritten := by simp
  pending := hx.pending
  endLast := hx.endLast

/-- A push needs room, and then writes the slot it counts (R150). -/
theorem UnitInv.push {calls steps pending : BitVec 32} {ended : Bool} (hx : UnitInv p x)
    (hroom : (x.head + 1) % p.ringCap ≠ x.tail) (howed : Owed steps pending ended) (w : Desc) : UnitInv p
      { x.push p w with motionCalls := calls, stepsRemaining := steps, pendingTicks := pending, endEmitted := ended } := by
  obtain ⟨q, hq⟩ := hx.exists_queue
  obtain ⟨hhead, htail, hoff, hpos, havail⟩ := hx.pointers.push w
  exact
    { pointers := ⟨hhead, htail, hoff, hpos, havail⟩
      occupancy := hx.occupancy
      refillAt := hx.refillAt
      runsArmed := hx.runsArmed
      ringWritten := Memory.written_iff.2 ⟨_, hx.pointers.queue_push hroom hq w⟩
      winWritten := hx.winWritten
      pending := howed.1
      endLast := howed.2 }

/-- The fetch position goes one slot further in its half, or begins a half (R181, R183). -/
theorem succ_mod_cases {h : Nat} (hpos : 0 < h) (a : Nat) :
    (a + 1) % h = a % h + 1 ∨ (a + 1) % h = 0 ∧ a % h + 1 = h := by
  rw [← Nat.mod_add_mod]
  obtain hlt | heq := Nat.lt_or_eq_of_le (Nat.mod_lt a hpos)
  · exact .inl (Nat.mod_eq_of_lt hlt)
  · exact .inr ⟨by rw [show a % h + 1 = h from heq, Nat.mod_self], heq⟩

/-- The occupancy bound after one descriptor is output: its slot moves behind the fetch position, and a whole half behind
it latches the threshold event (R86, R183). -/
theorem Occupancy.output (hx : Occupancy p x) (hhalf : 0 < p.half) (havail : 0 < x.txAvail) (w : Desc) :
    Occupancy p (x.output p w) := by
  have hW : p.winSize = 2 * p.half := rfl
  have hcol : (x.txPos + 1) % p.winSize % p.half = (x.txPos + 1) % p.half := Nat.mod_mul_left_mod _ 2 _
  simp only [Occupancy, UnitState.output, hcol, Bool.or_eq_true, decide_eq_true_eq] at hx ⊢
  obtain hnext | ⟨hzero, hlast⟩ := succ_mod_cases hhalf x.txPos
  · have hne : (x.txPos + 1) % p.half ≠ 0 := by omega
    simp only [hne, or_false]
    split at hx <;> simp_all <;> omega
  · rw [if_pos (.inr hzero)]
    split at hx <;> omega

/-- An output takes the front of the window; its end stays where it is (R181). -/
theorem UnitInv.output (hx : UnitInv p x) (hhalf : 0 < p.half) (hrun : x.txRun = true) (havail : 0 < x.txAvail)
    (w : Desc) : UnitInv p (x.output p w) := by
  have hW : 0 < p.winSize := Nat.mul_pos (by decide) hhalf
  obtain ⟨q, hq⟩ := hx.exists_queue
  obtain ⟨ws, hws⟩ := hx.exists_window hrun
  have hwindow : ∃ ws, (x.output p w).window p = some ws := by
    cases ws with
    | nil =>
      have hzero : 0 = x.txAvail := Memory.readMany_length hws
      omega
    | cons v ws => exact ⟨ws, UnitState.window_output hws w⟩
  obtain ⟨hhead, htail, hoff, hpos, hle⟩ := hx.pointers
  exact
    { pointers := ⟨hhead, htail, hoff, Nat.mod_lt _ hW, (Nat.sub_le _ 1).trans hle⟩
      occupancy := hx.occupancy.output hhalf havail w
      refillAt := fun _ => by
        calc x.hwOffset = (x.txPos + x.txAvail) % p.winSize := hx.refillAt hrun
          _ = ((x.txPos + 1) % p.winSize + (x.txAvail - 1)) % p.winSize := by
            rw [Nat.mod_add_mod, Nat.add_assoc, Nat.add_sub_cancel' havail]
      runsArmed := hx.runsArmed
      ringWritten := Memory.written_iff.2 ⟨q, (UnitState.queue_output x w).trans hq⟩
      winWritten := fun _ => Memory.written_iff.2 hwindow
      pending := hx.pending
      endLast := hx.endLast }

theorem UnitInv.endTrain (hx : UnitInv p x) :
    UnitInv p { x with txRun := false, stepOut := false, endPending := true } where
  pointers := ⟨hx.pointers.head, hx.pointers.tail, hx.pointers.hwOffset, hx.pointers.txPos, hx.pointers.txAvail⟩
  occupancy := hx.occupancy
  refillAt := by simp
  runsArmed := by simp
  ringWritten := hx.ringWritten
  winWritten := by simp
  pending := hx.pending
  endLast := hx.endLast

/-- With the threshold latched at most half the window is valid (R86). -/
theorem Occupancy.of_latched (hx : Occupancy p x) (hthr : x.thrPending = true) :
    x.txAvail + x.txPos % p.half ≤ p.half := by
  rwa [Occupancy, if_pos hthr] at hx

/-- A threshold service stores at most half a window behind at most half a window (R86, R196). -/
theorem UnitInv.refill (hx : UnitInv p x) (hW : 0 < p.winSize) (hthr : x.thrPending = true)
    (hhalf : ws.length ≤ p.half) (hcount : ws.length ≤ x.outstanding p) : UnitInv p (x.refill p ws) := by
  have hsize : p.winSize = 2 * p.half := rfl
  have hocc := hx.occupancy.of_latched hthr
  obtain ⟨q, hq⟩ := hx.exists_queue
  obtain ⟨hhead, htail, hoff, hpos, -⟩ := hx.pointers.take ws.length
  have hend (hrun : x.txRun = true) :
      (x.hwOffset + ws.length) % p.winSize = (x.txPos + (x.txAvail + ws.length)) % p.winSize := by
    rw [hx.refillAt hrun, Nat.mod_add_mod, Nat.add_assoc]
  exact
    { pointers := ⟨hhead, htail, Nat.mod_lt _ hW, hpos, show x.txAvail + ws.length ≤ p.winSize by omega⟩
      occupancy := show x.txAvail + ws.length + x.txPos % p.half ≤ p.winSize by omega
      refillAt := hend
      runsArmed := hx.runsArmed
      ringWritten := Memory.written_iff.2 ⟨_, hx.pointers.queue_take hq hcount⟩
      winWritten := fun hrun => by
        obtain ⟨v, hv⟩ := hx.exists_window hrun
        exact Memory.written_iff.2 ⟨_, UnitState.window_refill hv (hx.refillAt hrun) (by omega)⟩
      pending := hx.pending
      endLast := hx.endLast }

/-- Arming fills the window from its first slot with the front of the ring (R160, R186). -/
theorem UnitInv.arm (hx : UnitInv p x) (hW : 0 < p.winSize) (hfit : ws.length ≤ p.winSize)
    (hcount : ws.length ≤ x.outstanding p) : UnitInv p (x.arm p ws) := by
  obtain ⟨q, hq⟩ := hx.exists_queue
  obtain ⟨hhead, htail, -, -, -⟩ := hx.pointers.take ws.length
  exact
    { pointers := ⟨hhead, htail, Nat.mod_lt _ hW, hW, hfit⟩
      occupancy := show ws.length + 0 % p.half ≤ p.winSize by rwa [Nat.zero_mod, Nat.add_zero]
      refillAt := fun _ => show ws.length % p.winSize = (0 + ws.length) % p.winSize by rw [Nat.zero_add]
      runsArmed := fun _ => rfl
      ringWritten := Memory.written_iff.2 ⟨_, hx.pointers.queue_take hq hcount⟩
      winWritten := fun _ => Memory.written_iff.2 ⟨ws, UnitState.window_arm hfit⟩
      pending := hx.pending
      endLast := hx.endLast }

/-- Without the latch the bound is the weaker one. -/
theorem UnitInv.clear (hx : UnitInv p x) : UnitInv p { x with thrPending := false } := by
  obtain ⟨⟨hhead, htail, hoff, hpos, havail⟩, hocc, hat, harmed, hring, hwin, hpending, hend⟩ := hx
  refine ⟨⟨hhead, htail, hoff, hpos, havail⟩, ?_, hat, harmed, hring, hwin, hpending, hend⟩
  have hsize : p.winSize = 2 * p.half := rfl
  simp only [Occupancy, Bool.false_eq_true, if_false] at hocc ⊢
  split at hocc <;> omega

/-! ### Every operation, every step -/

theorem State.full_eq_false (h : s.full u = false) :
    ((s.unit u).head + 1) % s.params.ringCap ≠ (s.unit u).tail := by
  simpa [State.full] using h

/-- What is copied from the ring is as long as asked (R151). -/
theorem State.ringOldest_length {k : Nat} (h : s.ringOldest u k = some ws) : ws.length = k := Memory.readMany_length h

theorem ChannelUpdate.unitInv (h : ChannelUpdate s u i y) (hW : 0 < s.params.winSize)
    (hx : UnitInv s.params (s.unit u)) : UnitInv s.params y := by
  have hhalf : 0 < s.params.half := by unfold Params.winSize at hW; omega
  cases h with
  | aside => exact hx.aside
  | load _ halted => exact hx.load hW halted
  | halt => exact hx.halt hW
  | push _ room owed => exact hx.push (State.full_eq_false room) (owed ⟨hx.pending, hx.endLast⟩) _
  | arm _ oldest =>
    have hlen := State.ringOldest_length oldest
    exact hx.arm hW (hlen ▸ Nat.min_le_right _ _) (hlen ▸ Nat.min_le_left _ _)
  | output ready =>
    obtain ⟨hrun, havail, -⟩ := State.txReady_iff.1 ready
    exact hx.output hhalf hrun havail _
  | endTrain => exact hx.endTrain
  | refill _ latched oldest =>
    have hlen := State.ringOldest_length oldest
    exact hx.refill hW latched (hlen ▸ Nat.min_le_left _ _) (hlen ▸ Nat.min_le_right _ _)
  | clear => exact hx.clear

theorem MarksKept.paramsOk (h : MarksKept s t) : t.paramsOk = s.paramsOk := by
  rw [State.paramsOk, h.params, h.nstep, State.paramsOk]

theorem exec_channelInv (hs : ChannelInv s) (h : exec i s = .next t) : ChannelInv t := by
  have hkept := exec_marksKept h
  refine ⟨hkept.paramsOk.trans hs.params, fun u hu => ?_⟩
  rw [hkept.params]
  exact (exec_channel h u).unitInv hs.winSize_pos (hs.units u (hkept.nstep ▸ hu))

theorem ChannelInv.atTurn (hs : ChannelInv s) (a : List Turn) (i : SideInputs) (v : BitVec 8) :
    ChannelInv (s.atTurn a i v) := ⟨hs.params, hs.units⟩

/-- Settles O44: the start of a step and a refusal leave every unit alone, and every operation keeps the invariant of each
unit. -/
theorem everyStepKeepsTheChannelInvariant : Obligations.EveryStepKeepsTheChannelInvariant := by
  intro s t hs h
  exact step_keeps (fun a i v hs => hs.atTurn a i v) (fun _ hs => ⟨hs.params, hs.units⟩) exec_channelInv hs h

/-- Settles O46: the bounds are those of the invariant, and a number that names no unit reads as an empty window. -/
theorem thresholdServiceFindsHalfTheWindowFree : Obligations.ThresholdServiceFindsHalfTheWindowFree := by
  intro s u hs
  by_cases hu : u < s.nstep
  · have hx := hs.units u hu
    exact ⟨hx.pointers.txAvail, fun hthr => (Nat.le_add_right _ _).trans (hx.occupancy.of_latched hthr)⟩
  · rw [State.unit_of_ge (Nat.le_of_not_lt hu)]
    simp [UnitState.reset]

/-! ### No unwritten word is read -/

/-- A transmitter that may fetch finds a word (R83). -/
theorem ChannelInv.exists_fetchWord (hs : ChannelInv s) (hready : s.txReady u = true) : ∃ w, s.fetchWord u = some w := by
  obtain ⟨hrun, havail, -⟩ := State.txReady_iff.1 hready
  have hu : u < s.nstep := State.lt_nstep_of_unit_ne fun hreset => by simp [hreset, UnitState.reset] at hrun
  exact Option.isSome_iff_exists.1 ((hs.units u hu).winWritten hrun 0 havail)

/-- A copy of no more descriptors than the ring counts finds them all written (R78). -/
theorem ChannelInv.exists_ringOldest {k : Nat} (hs : ChannelInv s) (hu : u < s.nstep) (hk : k ≤ s.count u) :
    ∃ ws, s.ringOldest u k = some ws := by
  obtain ⟨q, hq⟩ := (hs.units u hu).exists_queue
  exact ⟨_, UnitState.queue_oldest hq hk⟩

/-- The only way an operation faults: a fetch, a refill or an arm meets a word that has no value (log 12). -/
theorem exec_fault (h : exec i s = .fault f) :
    (∃ u, s.txReady u = true ∧ s.fetchWord u = none) ∨
    (∃ u, (s.unit u).thrPending = true ∧ s.ringOldest u (min s.params.half (s.count u)) = none) ∨
    (∃ u, s.armReady u = true ∧ s.ringOldest u (min (s.count u) s.params.winSize) = none) := by
  cases i with
  | txDesc v =>
    simp only [exec, execTxDesc] at h
    split at h
    · next hready =>
      split at h
      · split at h <;> cases h
      · next hnone => exact .inl ⟨_, hready, hnone⟩
    · cases h
  | txEnd v =>
    simp only [exec, execTxEnd] at h
    split at h
    · next hready =>
      split at h
      · split at h <;> cases h
      · next hnone => exact .inl ⟨_, hready, hnone⟩
    · cases h
  | hThr v =>
    simp only [exec, execHThr] at h
    split at h
    · next hthr =>
      split at h
      · split at h
        · cases h
        · next hnone => exact .inr (.inl ⟨_, hthr, hnone⟩)
      · cases h
    · cases h
  | wkArm =>
    simp only [exec, execWkArm] at h
    split at h
    · cases h
    · split at h
      · split at h
        · next hready =>
          split at h
          · cases h
          · next hnone => exact .inr (.inr ⟨_, hready, hnone⟩)
        · cases h
      · cases h
  | setup | move | start | stop | wkTake | wkNext | encFirst | encCont | encEnd | hEnd | descEnd | descStep | descLow =>
    simp only [exec, execSetup, execMove, execStart, execStop, execWkTake, execWkNext, execEncFirst, execEncCont,
      execEncEnd, execHEnd, execDescEnd, execDescStep, execDescLow] at h
    repeat' split at h
    all_goals cases h

theorem State.lt_nstep_of_armReady (h : s.armReady u = true) : u < s.nstep :=
  State.lt_nstep_of_unit_ne fun hreset => by simp [State.armReady, hreset, UnitState.reset] at h

/-- Under the invariant every word an operation reads has been written. -/
theorem ChannelInv.exec_ne_fault (hs : ChannelInv s) : exec i s ≠ .fault f := by
  intro h
  obtain ⟨u, hready, hnone⟩ | ⟨u, hthr, hnone⟩ | ⟨u, hready, hnone⟩ := exec_fault h
  · obtain ⟨w, hw⟩ := hs.exists_fetchWord hready
    exact absurd (hnone.symm.trans hw) (by simp)
  · obtain ⟨ws, hws⟩ := hs.exists_ringOldest (State.lt_nstep_of_thrPending hthr) (Nat.min_le_right _ _)
    exact absurd (hnone.symm.trans hws) (by simp)
  · obtain ⟨ws, hws⟩ := hs.exists_ringOldest (State.lt_nstep_of_armReady hready) (Nat.min_le_left _ _)
    exact absurd (hnone.symm.trans hws) (by simp)

/-- A step faults only where the operation it runs does. -/
theorem step_fault (h : step s = .fault f) : ∃ i s', s.fetch = .run i s' ∧ exec i s' = .fault f := by
  unfold step at h
  split at h
  · split at h
    · cases h
    · split at h
      · next i s' hf => exact ⟨i, s', hf, h⟩
      · cases h
      · cases h
  · cases h

/-- Settles O47: the state an operation is fetched on has the invariant, and under it no operation faults. -/
theorem noStepReadsAnUnwrittenWord : Obligations.NoStepReadsAnUnwrittenWord := by
  intro s f hs h
  obtain ⟨i, s', hf, hexec⟩ := step_fault h
  have hs' : ChannelInv s' := fetch_atTurn (.inl ⟨i, hf⟩) ▸ hs.atTurn _ _ _
  exact hs'.exec_ne_fault hexec

end Sys2Proof.Machine
end

section
/-! Every step keeps the memory spaces canonical and within their descriptors (R70, R77; O45). -/

namespace Sys2Proof.Machine

variable {s t : State} {i : Instr} {u : Nat} {y : UnitState}

/-- The two memory spaces of a unit are canonical and list only their own descriptors (R70). -/
def UnitState.SpacesIn (p : Params) (x : UnitState) : Prop := SpaceIn x.ring p.ringCap ∧ SpaceIn x.win p.winSize

theorem UnitState.SpacesIn.congr {p : Params} {x : UnitState} (hx : x.SpacesIn p) (hring : y.ring = x.ring)
    (hwin : y.win = x.win) : y.SpacesIn p := by
  rwa [UnitState.SpacesIn, hring, hwin]

/-- Only a push writes the ring, and only an arm and a refill write the window: each at indexes modulo its space. -/
theorem ChannelUpdate.spacesIn (h : ChannelUpdate s u i y) (hW : 0 < s.params.winSize)
    (hx : (s.unit u).SpacesIn s.params) : y.SpacesIn s.params := by
  have ⟨hring, hwin⟩ := hx
  cases h with
  | push => exact ⟨hring.writeWord (Nat.mod_lt _ s.params.ringCap_pos) _, hwin⟩
  | arm => exact ⟨hring, hwin.writeMany hW⟩
  | refill => exact ⟨hring, hwin.writeMany hW⟩
  | output => exact hx.congr (UnitState.ring_output _ _) (UnitState.win_output _ _)
  | aside | load | halt | endTrain | clear => exact hx.congr rfl rfl

theorem exec_memoryInv (hok : s.paramsOk = true) (hs : MemoryInv s) (h : exec i s = .next t) : MemoryInv t := by
  have hkept := exec_marksKept h
  intro u hu
  rw [hkept.params]
  exact (exec_channel h u).spacesIn (Params.ok_winSize_pos hok) (hs u (hkept.nstep ▸ hu))

/-- Settles O45: a step is taken under legal parameters only, and under them every operation keeps both spaces of each
unit. -/
theorem everyStepKeepsMemoryCanonical : Obligations.EveryStepKeepsMemoryCanonical := by
  intro s t hs h
  obtain ⟨hok, -, -⟩ := step_next h
  exact (step_keeps (P := fun s => s.paramsOk = true ∧ MemoryInv s) (fun _ _ _ hs => hs) (fun _ hs => hs)
    (fun ⟨hok, hs⟩ hi => ⟨(exec_marksKept hi).paramsOk.trans hok, exec_memoryInv hok hs hi⟩) ⟨hok, hs⟩ h).2

end Sys2Proof.Machine
end

section
/-! The ring is a first-in first-out queue of at most C - 1 descriptors (R85; O52). -/

namespace Sys2Proof.Machine

variable {s : State} {i : Instr} {u : Nat} {y : UnitState} {q : List Desc}

/-- What R85 lets an operation do to the ring of unit u that holds `q`: nothing, append one word, move its front to the
window in its order, or empty it. -/
def QueueMove (s : State) (u : Nat) (i : Instr) (q : List Desc) (y : UnitState) : Prop :=
  (y.queue s.params = some q ∧ y.win = (s.unit u).win) ∨
  (IsEncodeOf i u ∧ ∃ w, y.queue s.params = some (q ++ [w])) ∨
  (IsThresholdOf i u ∧ ∃ k, y.queue s.params = some (q.drop k) ∧ k ≤ s.params.half ∧
    Memory.readMany y.win s.params.winSize (s.unit u).hwOffset k = some (q.take k)) ∨
  (IsArmOf s i u ∧ ∃ k, y.queue s.params = some (q.drop k) ∧ k = min q.length s.params.winSize ∧
    Memory.readMany y.win s.params.winSize 0 k = some (q.take k)) ∨
  (IsMoveOf i u ∧ y.queue s.params = some [])

/-- What is copied from the ring is the front of its queue (R151). -/
theorem State.ringOldest_eq {k : Nat} {ws : List Desc} (hq : (s.unit u).queue s.params = some q) (hk : k ≤ s.count u)
    (h : s.ringOldest u k = some ws) : ws = q.take k :=
  Option.some.inj (h.symm.trans (UnitState.queue_oldest hq hk))

theorem ChannelUpdate.queueMove (h : ChannelUpdate s u i y) (hx : PointersIn s.params (s.unit u))
    (hq : (s.unit u).queue s.params = some q) : QueueMove s u i q y := by
  have hsize : s.params.winSize = 2 * s.params.half := rfl
  have hcount : s.count u = q.length := (UnitState.queue_length hq).symm
  have hout : (s.unit u).outstanding s.params = s.count u := rfl
  unfold QueueMove
  cases h with
  | aside | halt | endTrain | clear => exact .inl ⟨(UnitState.queue_congr rfl rfl rfl).trans hq, rfl⟩
  | output => exact .inl ⟨(UnitState.queue_output _ _).trans hq, UnitState.win_output _ _⟩
  | push encode room => exact .inr (.inl ⟨encode, _, hx.queue_push (State.full_eq_false room) hq _⟩)
  | @refill ws threshold _ oldest =>
    have hlen := State.ringOldest_length oldest
    have hfront : ws = q.take ws.length := State.ringOldest_eq hq (by omega) (hlen ▸ oldest)
    refine .inr (.inr (.inl ⟨threshold, ws.length, hx.queue_take hq (by omega), by omega, ?_⟩))
    rw [← hfront]
    exact Memory.readMany_writeMany _ _ (by omega)
  | @arm ws arms oldest =>
    have hlen := State.ringOldest_length oldest
    have hfront : ws = q.take ws.length := State.ringOldest_eq hq (by omega) (hlen ▸ oldest)
    refine .inr (.inr (.inr (.inl ⟨arms, ws.length, hx.queue_take hq (by omega), by omega, ?_⟩)))
    rw [← hfront]
    exact UnitState.window_arm (by omega)
  | load move => exact .inr (.inr (.inr (.inr ⟨move, UnitState.queue_of_empty rfl⟩)))

/-- Settles O52: the count stays below C, and what an operation does to the unit is a move of its queue. -/
theorem ringIsAFirstInFirstOutQueue : Obligations.RingIsAFirstInFirstOutQueue := by
  intro s t i u q hs hu h hq
  have hlen : q.length < s.params.ringCap := UnitState.queue_length hq ▸ UnitState.outstanding_lt _ _
  have hmove : QueueMove s u i q (t.unit u) := (exec_channel h u).queueMove (hs.units u hu).pointers hq
  rw [State.ringContents_eq, (exec_marksKept h).params]
  exact ⟨hlen, hmove⟩

end Sys2Proof.Machine
end

section
/-! The decoder and the encoder are inverse on the words of every format (R101, R102, R106, R107, R114; O1, O2), the
command words that decode are those of R107's table (O3), and words of the spec's tables decode (O4). A word is taken
apart into its fields once, and every row of a table is then a list of fields. -/

namespace Sys2Proof

/-! ### Words as their fields -/

section
variable {n m lo len : Nat}

/-- A word of two parts is told by the fields where the parts lie. -/
theorem append_eq_iff {a : BitVec n} {b : BitVec m} {w : BitVec (n + m)} :
    a ++ b = w ↔ a = field w m n ∧ b = field w 0 m := by
  unfold field
  constructor
  · rintro rfl
    exact ⟨BitVec.extractLsb'_append_eq_left.symm, BitVec.extractLsb'_append_eq_right.symm⟩
  · rintro ⟨rfl, rfl⟩
    exact BitVec.extractLsb'_append_extractLsb'

/-- A field of a field lies at the sum of their places. -/
theorem field_field {w : BitVec n} {lo' len' : Nat} (h : lo' + len' ≤ len) :
    field (field w lo len) lo' len' = field w (lo + lo') len' := by
  unfold field
  apply BitVec.eq_of_getLsbD_eq
  intro i hi
  have hlen : lo' + i < len := by omega
  simp [hi, hlen, Nat.add_assoc]

/-- A field of one bit is that bit. -/
theorem ofBool_eq_field_one_iff {w : BitVec n} {b : Bool} : BitVec.ofBool b = field w lo 1 ↔ b = w.getLsbD lo := by
  have hbit : field w lo 1 = BitVec.ofBool (w.getLsbD lo) := by
    apply BitVec.eq_of_getLsbD_eq
    intro i hi
    obtain rfl : i = 0 := by omega
    simp [field]
  rw [hbit, BitVec.ofBool_eq_iff_eq]

/-- Where a mask is all ones, the masked word shows the field of the word. -/
theorem field_of_masked {w mask v : BitVec n} {c : BitVec len} (h : w &&& mask = v)
    (hmask : field mask lo len = BitVec.allOnes len) (hv : field v lo len = c) : field w lo len = c := by
  unfold field at *
  rw [← hv, ← h, BitVec.extractLsb'_and, hmask, BitVec.and_allOnes]

end

/-! ### The encoder, row by row -/

section
variable {w : CmdWord}

theorem encode_setup_iff {s d : BitVec 8} : encode (.setup s d) = .command w ↔
    field w 60 4 = 1 ∧ field w 59 1 = 0 ∧ field w 56 3 = 0 ∧ field w 48 8 = 0 ∧ field w 32 16 = 0 ∧
      field w 16 16 = 0 ∧ field w 8 8 = d ∧ field w 0 8 = s := by
  rw [encode, InstrWord.command.injEq]
  repeat rw [append_eq_iff]
  simp [field_field, and_assoc, eq_comm]

theorem encode_move_iff {u : BitVec 8} {dir : Bool} {n : BitVec 32} : encode (.move u dir n) = .command w ↔
    field w 60 4 = 2 ∧ w.getLsbD 59 = dir ∧ field w 56 3 = 0 ∧ field w 48 8 = u ∧ field w 32 16 = 0 ∧
      field w 0 32 = n := by
  rw [encode, InstrWord.command.injEq]
  repeat rw [append_eq_iff]
  simp [field_field, ofBool_eq_field_one_iff, and_assoc, eq_comm]

theorem encode_start_iff {m : Mask} {c : BitVec 32} : encode (.start m c) = .command w ↔
    field w 60 4 = 3 ∧ field w 59 1 = 0 ∧ field w 56 3 = 0 ∧ field w 48 8 = 0 ∧ field w 32 16 = m ∧
      field w 0 32 = c := by
  rw [encode, InstrWord.command.injEq]
  repeat rw [append_eq_iff]
  simp [field_field, and_assoc, eq_comm]

theorem encode_stop_iff {m : Mask} : encode (.stop m) = .command w ↔
    field w 60 4 = 4 ∧ field w 59 1 = 0 ∧ field w 56 3 = 0 ∧ field w 48 8 = 0 ∧ field w 32 16 = m ∧
      field w 0 32 = 0 := by
  rw [encode, InstrWord.command.injEq]
  repeat rw [append_eq_iff]
  simp [field_field, and_assoc, eq_comm]

end

theorem opWord_eq_iff {w : OpWord} {code : BitVec 4} {u : BitVec 8} : opWord code u = .operation w ↔
    field w 8 8 = u ∧ field w 4 4 = 0 ∧ field w 0 4 = code := by
  rw [opWord, InstrWord.operation.injEq]
  repeat rw [append_eq_iff]
  simp [field_field, and_assoc, eq_comm]

theorem desc_eq_iff {w : Desc} {l0 l1 : Bool} {d0 d1 : Dur} : desc l0 d0 l1 d1 = w ↔
    w.getLsbD 31 = l1 ∧ field w 16 15 = d1 ∧ w.getLsbD 15 = l0 ∧ field w 0 15 = d0 := by
  rw [desc]
  repeat rw [append_eq_iff]
  simp [field_field, ofBool_eq_field_one_iff, and_assoc, eq_comm]

/-- A descriptor is the marker's word only if every field of it is 0 (R103). -/
theorem desc_eq_zero_iff {l0 l1 : Bool} {d0 d1 : Dur} :
    desc l0 d0 l1 d1 = 0 ↔ l1 = false ∧ d1 = 0 ∧ l0 = false ∧ d0 = 0 := by
  constructor
  · intro h
    obtain ⟨rfl, rfl, rfl, rfl⟩ := desc_eq_iff.1 h
    decide
  · rintro ⟨rfl, rfl, rfl, rfl⟩
    rfl

/-! ### The decoder of each format undoes the encoder -/

variable {i : Instr}

theorem decodeCommand_eq_ok_iff {w : CmdWord} : decodeCommand w = .ok i ↔ encode i = .command w := by
  constructor <;> intro h
  case mp =>
    simp only [decodeCommand, ite_eq_iff, Except.ok.injEq, reduceCtorEq, and_false, or_false, false_or, not_not,
      ne_eq] at h
    obtain ⟨hzero, ⟨hop, ⟨hdir, hunit, hmask, hhigh⟩, rfl⟩ | ⟨-, ⟨hop, hmask, rfl⟩ | ⟨-, ⟨hop, ⟨hdir, hunit⟩, rfl⟩ |
      ⟨-, hop, ⟨hdir, hunit, hlow⟩, rfl⟩⟩⟩⟩ := h
    · exact encode_setup_iff.2 ⟨hop, hdir, hzero, hunit, hmask, hhigh, rfl, rfl⟩
    · exact encode_move_iff.2 ⟨hop, rfl, hzero, rfl, hmask, rfl⟩
    · exact encode_start_iff.2 ⟨hop, hdir, hzero, hunit, rfl, rfl⟩
    · exact encode_stop_iff.2 ⟨hop, hdir, hzero, hunit, rfl, hlow⟩
  case mpr =>
    cases i with
    | setup s d =>
      obtain ⟨hop, hdir, hzero, hunit, hmask, hhigh, rfl, rfl⟩ := encode_setup_iff.1 h
      simp [decodeCommand, hop, hdir, hzero, hunit, hmask, hhigh]
    | move u dir n =>
      obtain ⟨hop, rfl, hzero, rfl, hmask, rfl⟩ := encode_move_iff.1 h
      simp [decodeCommand, hop, hzero, hmask]
    | start m c =>
      obtain ⟨hop, hdir, hzero, hunit, rfl, rfl⟩ := encode_start_iff.1 h
      simp [decodeCommand, hop, hdir, hzero, hunit]
    | stop m =>
      obtain ⟨hop, hdir, hzero, hunit, rfl, hlow⟩ := encode_stop_iff.1 h
      simp [decodeCommand, hop, hdir, hzero, hunit, hlow]
    | _ => nomatch h

theorem decodeOperation_eq_ok_iff {w : OpWord} : decodeOperation w = .ok i ↔ encode i = .operation w := by
  constructor <;> intro h
  case mp =>
    by_cases hzero : field w 4 4 = 0
    case neg =>
      rw [decodeOperation, if_pos hzero] at h
      cases h
    have hword : opWord (field w 0 4) (field w 8 8) = .operation w := opWord_eq_iff.2 ⟨rfl, hzero, rfl⟩
    rw [decodeOperation, if_neg (not_not.2 hzero)] at h
    rw [← hword]
    generalize field w 0 4 = code, field w 8 8 = u at h
    simp only [ite_eq_iff, Except.ok.injEq, reduceCtorEq, and_false, or_false, false_or, not_not, ne_eq] at h
    -- The ten codes, in the order the decoder asks for them; the last three take no channel.
    rcases h with ⟨rfl, rfl⟩ | ⟨-, ⟨rfl, rfl⟩ | ⟨-, ⟨rfl, rfl⟩ | ⟨-, ⟨rfl, rfl⟩ | ⟨-, ⟨rfl, rfl⟩ | ⟨-, ⟨rfl, rfl⟩ |
      ⟨-, ⟨rfl, rfl⟩ | ⟨-, rfl, ⟨rfl, rfl⟩ | ⟨-, ⟨rfl, rfl⟩ | ⟨-, rfl, rfl⟩⟩⟩⟩⟩⟩⟩⟩⟩
    all_goals rfl
  case mpr =>
    cases i with
    | setup | move | start | stop | descEnd | descStep | descLow => nomatch h
    | wkTake | encFirst | encCont | encEnd | wkNext | wkArm | txDesc | txEnd | hThr | hEnd =>
      obtain ⟨hu, hzero, hcode⟩ := opWord_eq_iff.1 h
      simp [decodeOperation, hu, hzero, hcode]

/-- The one descriptor row with an operand the decoder does not give back: a DESC_LOW of two empty phases is the
marker's word (log 29). -/
theorem decodeDescriptor_eq_ok_iff {w : Desc} :
    decodeDescriptor w = .ok i ↔ encode i = .descriptor w ∧ i ≠ .descLow 0 0 := by
  constructor
  case mp =>
    intro h
    unfold decodeDescriptor at h
    split_ifs at h with hmarker hlvl1 hlvl0
    all_goals obtain rfl := Except.ok.inj h
    · rw [hmarker]
      exact ⟨rfl, nofun⟩
    · exact ⟨congrArg _ (desc_eq_iff.2 ⟨by simpa using hlvl1, rfl, hlvl0, rfl⟩), nofun⟩
    · have hdesc : desc false (field w 0 15) false (field w 16 15) = w :=
        desc_eq_iff.2 ⟨by simpa using hlvl1, rfl, by simpa using hlvl0, rfl⟩
      refine ⟨congrArg _ hdesc, fun hlow => hmarker ?_⟩
      obtain ⟨hd0, hd1⟩ := Instr.descLow.inj hlow
      exact hdesc.symm.trans (desc_eq_zero_iff.2 ⟨rfl, hd1, rfl, hd0⟩)
  case mpr =>
    rintro ⟨h, hlow⟩
    cases i with
    | descEnd => cases h; rfl
    | descStep d0 d1 =>
      have hdesc := InstrWord.descriptor.inj h
      have hmarker : w ≠ 0 := fun hw => by simpa using desc_eq_zero_iff.1 (hdesc.trans hw)
      obtain ⟨hlvl1, rfl, hlvl0, rfl⟩ := desc_eq_iff.1 hdesc
      rw [decodeDescriptor, if_neg hmarker, hlvl1, hlvl0]
      rfl
    | descLow d0 d1 =>
      have hdesc := InstrWord.descriptor.inj h
      have hmarker : w ≠ 0 := fun hw => by
        obtain ⟨-, rfl, -, rfl⟩ := desc_eq_zero_iff.1 (hdesc.trans hw)
        exact hlow rfl
      obtain ⟨hlvl1, rfl, hlvl0, rfl⟩ := desc_eq_iff.1 hdesc
      rw [decodeDescriptor, if_neg hmarker, hlvl1, hlvl0]
      rfl
    | _ => nomatch h

/-- A word decodes to exactly the operations it encodes, of which there is at most one. -/
theorem decode_eq_ok_iff {w : InstrWord} : decode w = .ok i ↔ encode i = w ∧ i ≠ .descLow 0 0 := by
  cases w with
  | command w => exact decodeCommand_eq_ok_iff.trans (iff_self_and.2 fun h => by rintro rfl; nomatch h)
  | operation w => exact decodeOperation_eq_ok_iff.trans (iff_self_and.2 fun h => by rintro rfl; nomatch h)
  | descriptor w => exact decodeDescriptor_eq_ok_iff

/-- Settles O1: the one operation the decoder does not give back is not well formed. -/
theorem decodeOfEncodeIsTheOperation : Obligations.DecodeOfEncodeIsTheOperation := by
  intro i hwf
  refine decode_eq_ok_iff.2 ⟨rfl, ?_⟩
  rintro rfl
  exact absurd hwf (by decide)

/-- Settles O2: the other direction of the same equivalence. -/
theorem encodeOfDecodeIsTheWord : Obligations.EncodeOfDecodeIsTheWord := by
  intro w i h
  obtain ⟨hword, -⟩ := decode_eq_ok_iff.1 h
  exact hword

/-! ### The table of R107 -/

/-- Settles O3: a decoded word is an encoded command, which agrees with its row (`Laws.MatchesRow`); and a word that
agrees with a row has that row's constant fields, so it encodes the command of its other fields. -/
theorem commandWordDecodesIffItMatchesARow : Obligations.CommandWordDecodesIffItMatchesARow := by
  intro w
  simp only [decodeCommand_eq_ok_iff]
  constructor
  case mp =>
    rintro ⟨i, h⟩
    have hrow (hi : Laws.MatchesRow.Statement i) : Laws.agrees (.command w) (Laws.tableRow i) := h ▸ hi
    cases i with
    | setup s d => exact .inl (hrow (Laws.MatchesRow.setup s d))
    | move u dir n => exact .inr (.inl (hrow (Laws.MatchesRow.move u dir n)))
    | start m c => exact .inr (.inr (.inl (hrow (Laws.MatchesRow.start m c))))
    | stop m => exact .inr (.inr (.inr (hrow (Laws.MatchesRow.stop m))))
    | _ => nomatch h
  case mpr =>
    rintro (h | h | h | h)
    · refine ⟨_, encode_setup_iff.2 ⟨?_, ?_, ?_, ?_, ?_, ?_, rfl, rfl⟩⟩
      all_goals exact field_of_masked h rfl rfl
    · refine ⟨_, encode_move_iff.2 ⟨?_, rfl, ?_, rfl, ?_, rfl⟩⟩
      all_goals exact field_of_masked h rfl rfl
    · refine ⟨_, encode_start_iff.2 ⟨?_, ?_, ?_, ?_, rfl, rfl⟩⟩
      all_goals exact field_of_masked h rfl rfl
    · refine ⟨_, encode_stop_iff.2 ⟨?_, ?_, ?_, ?_, rfl, ?_⟩⟩
      all_goals exact field_of_masked h rfl rfl

/-- Settles O4: fifteen closed words, decoded. -/
theorem specWordsDecodeToTheirOperations : Obligations.SpecWordsDecodeToTheirOperations := by
  unfold Obligations.SpecWordsDecodeToTheirOperations
  decide

end Sys2Proof
end

section
/-! A word that is no operation, on its agent's turn: the run is marked refused and nothing else changes (R113, R114;
O6, O7). -/

namespace Sys2Proof.Machine

variable {s t : State} {rest : List Turn} {r : Refusal} {e : DecodeError}

theorem step_of_fetch_reserved (hs : s.steps) (h : s.fetch = .reserved r t) : step s = .next (t.refuse r) := by
  obtain ⟨hp, hr⟩ := hs
  simp [step, hp, hr, h]

theorem fetchTurn_host_reserved {w : CmdWord} {side : SideInputs} (h : decodeCommand w = .error e) :
    s.fetchTurn (.host w side) = .reserved .reservedCommand s := by
  simp [State.fetchTurn, h]

theorem fetchTurn_operation_reserved {w : OpWord} (h : decodeOperation w = .error e) :
    s.fetchTurn (.operation w) = .reserved .reservedOperation s := by
  simp [State.fetchTurn, h]

/-- Settles O6: a word off the four rows does not decode (O3), and a turn with such a word is refused. -/
theorem reservedCommandMarksTheRunRefused : Obligations.ReservedCommandMarksTheRunRefused := by
  intro s w side rest hp hr ha hsetup hmove hstart hstop
  cases hd : decodeCommand w with
  | ok i =>
    have hrow := (commandWordDecodesIffItMatchesARow w).1 ⟨i, hd⟩
    simp [hsetup, hmove, hstart, hstop] at hrow
  | error e => exact step_of_fetch_reserved ⟨hp, hr⟩ ((fetch_of_turn ha).trans (fetchTurn_host_reserved hd))

/-- Settles O7: a turn with a word the decoder rejects is refused. -/
theorem reservedOperationWordMarksTheRunRefused : Obligations.ReservedOperationWordMarksTheRunRefused :=
  fun _ _ _ _ hp hr ha hd =>
    step_of_fetch_reserved ⟨hp, hr⟩ ((fetch_of_turn ha).trans (fetchTurn_operation_reserved hd))

end Sys2Proof.Machine
end

section
/-! INT_ST bit by bit (R115), and irq (R49; O35). -/

namespace Sys2Proof.Machine

variable {s : State} {u k : Nat}

@[simp] theorem getLsbD_bitAt {i : Nat} {b : Bool} :
    (bitAt i b).getLsbD k = true ↔ b = true ∧ k = i ∧ k < 32 := by
  cases b <;> simp [bitAt, BitVec.getLsbD_twoPow]
  omega

/-- A bit of a word gathered by OR is a bit of one of its parts. -/
theorem getLsbD_foldl_or {f g : Nat → BitVec 32} {l : List Nat} {w : BitVec 32} :
    (l.foldl (fun w u => w ||| f u ||| g u) w).getLsbD k = true ↔
      w.getLsbD k = true ∨ ∃ u ∈ l, (f u).getLsbD k = true ∨ (g u).getLsbD k = true := by
  induction l generalizing w with
  | nil => simp
  | cons u l ih => simp [ih, or_assoc]

/-- A bit of INT_ST is the threshold latch of the unit at its place, or the completion latch of the unit 16 below. -/
theorem State.getLsbD_intSt : s.intSt.getLsbD k = true ↔
    k < 32 ∧ ∃ u < s.nstep, (k = u ∧ (s.unit u).thrPending = true) ∨ (k = 16 + u ∧ (s.unit u).endPending = true) := by
  simp only [State.intSt, getLsbD_foldl_or, getLsbD_bitAt, List.mem_range]
  grind

theorem State.irq_iff : s.irq = true ↔ ∃ u < s.nstep, (s.unit u).thrPending = true ∨ (s.unit u).endPending = true := by
  simp [State.irq]

theorem State.getLsbD_intSt_threshold (hn : s.nstep ≤ 16) (hu : u < s.nstep) :
    s.intSt.getLsbD u = (s.unit u).thrPending := by
  rw [Bool.eq_iff_iff, State.getLsbD_intSt]
  constructor
  · rintro ⟨-, v, -, ⟨rfl, h⟩ | ⟨hv, -⟩⟩
    · exact h
    · omega
  · exact fun h => ⟨by omega, u, hu, .inl ⟨rfl, h⟩⟩

theorem State.getLsbD_intSt_completion (hn : s.nstep ≤ 16) (hu : u < s.nstep) :
    s.intSt.getLsbD (16 + u) = (s.unit u).endPending := by
  rw [Bool.eq_iff_iff, State.getLsbD_intSt]
  constructor
  · rintro ⟨-, v, hv, ⟨hk, -⟩ | ⟨hk, h⟩⟩
    · omega
    · obtain rfl : u = v := by omega
      exact h
  · exact fun h => ⟨by omega, u, hu, .inr ⟨rfl, h⟩⟩

/-- Settles O35: each latch has a bit of its own, no other bit is set, and irq asks for some latch. -/
theorem interruptStatusShowsTheLatches : Obligations.InterruptStatusShowsTheLatches := by
  intro s hn
  refine ⟨fun u hu => ⟨State.getLsbD_intSt_threshold hn hu, State.getLsbD_intSt_completion hn hu⟩,
    fun k hk hlt => ⟨?threshold, ?completion⟩, ?irq⟩
  case threshold =>
    rw [Bool.eq_false_iff, Ne, State.getLsbD_intSt]
    rintro ⟨-, u, hu, ⟨rfl, -⟩ | ⟨rfl, -⟩⟩ <;> omega
  case completion =>
    rw [Bool.eq_false_iff, Ne, State.getLsbD_intSt]
    rintro ⟨-, u, hu, ⟨h, -⟩ | ⟨h, -⟩⟩ <;> omega
  case irq =>
    rw [State.irq_iff]
    constructor
    · rintro ⟨u, hu, h | h⟩ hzero
      · have hbit := State.getLsbD_intSt_threshold hn hu
        simp [hzero, h] at hbit
      · have hbit := State.getLsbD_intSt_completion hn hu
        simp [hzero, h] at hbit
    · intro hne
      by_contra hno
      refine hne (BitVec.eq_of_getLsbD_eq fun k _ => ?_)
      refine (Bool.eq_false_iff.2 fun hbit => ?_).trans BitVec.getLsbD_zero.symm
      obtain ⟨-, u, hu, ⟨-, h⟩ | ⟨-, h⟩⟩ := State.getLsbD_intSt.1 hbit
      · exact hno ⟨u, hu, .inl h⟩
      · exact hno ⟨u, hu, .inr h⟩

end Sys2Proof.Machine
end

section
/-! The descriptor classes run as operations: each is what the selected transmitter does with that word, as TX_END and
TX_DESC are with the word fetched (R102, R181, R182; O28). -/

namespace Sys2Proof.Machine

variable {s : State} {u : Nat} {w : Desc}

/-! ### The fields of a descriptor put together from them -/

section
variable (l0 l1 : Bool) (d0 d1 : Dur)

@[simp] theorem lvl0_desc : lvl0 (desc l0 d0 l1 d1) = l0 := by
  obtain ⟨-, -, h, -⟩ := desc_eq_iff.1 (rfl : desc l0 d0 l1 d1 = _)
  exact h

@[simp] theorem dur0_desc : dur0 (desc l0 d0 l1 d1) = d0 := by
  obtain ⟨-, -, -, h⟩ := desc_eq_iff.1 (rfl : desc l0 d0 l1 d1 = _)
  exact h

@[simp] theorem lvl1_desc : lvl1 (desc l0 d0 l1 d1) = l1 := by
  obtain ⟨h, -, -, -⟩ := desc_eq_iff.1 (rfl : desc l0 d0 l1 d1 = _)
  exact h

@[simp] theorem dur1_desc : dur1 (desc l0 d0 l1 d1) = d1 := by
  obtain ⟨-, h, -, -⟩ := desc_eq_iff.1 (rfl : desc l0 d0 l1 d1 = _)
  exact h

end

theorem bothZero_eq_false_iff : bothZero w = false ↔ dur0 w ≠ 0 ∨ dur1 w ≠ 0 := by
  simp [bothZero, or_iff_not_imp_left]

/-- The marker has no duration (R103). -/
theorem ne_marker_of_bothZero (h : bothZero w = false) : w ≠ marker := by
  rintro rfl
  exact absurd h (by decide)

/-! ### What the transmitter does with a word -/

theorem State.consume_valid (h : bothZero w = false) : s.consume u w = s.modUnit u (·.output s.params w) := by
  rw [State.consume_of_ne (ne_marker_of_bothZero h), State.transmit_valid h]

/-- A unit after the output of a descriptor with a duration (R181, R183), register by register. -/
theorem UnitState.output_eq (x : UnitState) (p : Params) (w : Desc) :
    x.output p w = { x with
      trace := x.trace ++ [⟨lvl0 w, dur0 w⟩, ⟨lvl1 w, dur1 w⟩]
      stepOut := if dur1 w = 0 then lvl0 w else lvl1 w
      txPos := (x.txPos + 1) % p.winSize
      txAvail := x.txAvail - 1
      thrPending := if (x.txPos + 1) % p.winSize % p.half = 0 then true else x.thrPending } := by
  simp only [UnitState.output, UnitState.emit, restLevel, List.append_assoc, List.singleton_append, UnitState.mk.injEq,
    true_and, and_true]
  split <;> simp [*]

/-- A descriptor class run as an operation consumes its word (log 5). -/
theorem exec_descriptor {i : Instr} (hready : s.txReady s.txSel.toNat = true) (h : encode i = .descriptor w) :
    exec i s = .next (s.consume s.txSel.toNat w) := by
  cases i with
  | descEnd => cases h; exact if_pos hready
  | descStep | descLow => cases h; exact if_pos hready
  | _ => nomatch h

/-- TX_END of the marker and TX_DESC of any other word consume the word fetched (R181, R182). -/
theorem exec_transmitter {u : BitVec 8} (hready : s.txReady u.toNat = true) (hw : s.fetchWord u.toNat = some w) :
    exec (if w = marker then .txEnd u else .txDesc u) s = .next (s.consume u.toNat w) := by
  by_cases hmarker : w = marker
  · rw [if_pos hmarker, hmarker, State.consume_marker]
    simp [exec, execTxEnd, hready, hw, hmarker]
  · rw [if_neg hmarker, State.consume_of_ne hmarker]
    simp [exec, execTxDesc, hready, hw, hmarker]

/-- Settles O28: a class consumes its word, the marker ends the train, a word with a duration is output, and TX_END or
TX_DESC consumes the word fetched. -/
theorem descriptorClassesAreTheTransmittersSteps : Obligations.DescriptorClassesAreTheTransmittersSteps := by
  intro s hready
  refine ⟨?marker, fun l a b hdur => ?output, fun i w hi hw => ?fetched⟩
  case marker =>
    rw [exec_descriptor (w := marker) hready rfl, State.consume_marker]
    rfl
  case output =>
    have hword : encode (if l then .descStep a b else .descLow a b) = .descriptor (desc l a false b) := by
      cases l <;> rfl
    have hzero : bothZero (desc l a false b) = false := by simpa [bothZero_eq_false_iff] using hdur
    rw [exec_descriptor hready hword, State.consume_valid hzero]
    simp only [State.modUnit, State.setUnit, UnitState.output_eq, lvl0_desc, lvl1_desc, dur0_desc, dur1_desc]
  case fetched => exact (exec_descriptor hready hi).trans (exec_transmitter hready hw).symm

end Sys2Proof.Machine
end

section
/-! The words of the encoder: each stands for the ticks it takes from an interval, and the descriptors of an interval sum to
it (R130, R133, R134, R138; O37). -/

namespace Sys2Proof.Machine

variable {n t p : Nat} {w : Desc}

/-! ### Durations -/

theorem toNat_durOf (h : n ≤ Config.durMax) : (durOf n).toNat = n :=
  BitVec.toNat_ofNat n 15 ▸ Nat.mod_eq_of_lt (Nat.lt_succ_of_le h)

theorem durOf_ne_zero (hpos : 1 ≤ n) (h : n ≤ Config.durMax) : durOf n ≠ 0 := fun hzero => by
  have hn : (0 : Dur).toNat = n := hzero ▸ toNat_durOf h
  exact absurd hn (Nat.ne_of_lt hpos)

theorem ticksOf_desc (l0 l1 : Bool) (d0 d1 : Dur) : ticksOf (desc l0 d0 l1 d1) = d0.toNat + d1.toNat := by
  simp [ticksOf]

/-- A descriptor that carries ticks is not the marker (R103). -/
theorem ne_zero_of_ticksOf (h : 0 < ticksOf w) : w ≠ 0 := by
  rintro rfl
  exact absurd h (by decide)

theorem toNat_dur_le (d : Dur) : d.toNat ≤ 32767 := Nat.le_of_lt_succ d.isLt

/-! ### The first descriptor -/

theorem ticksOf_stepWord (hp : p ≤ Config.durMax) : ticksOf (stepWord t p) = p + firstLow t p := by
  have hlow : firstLow t p ≤ Config.durMax := Nat.min_le_right _ _
  rw [stepWord, ticksOf_desc, toNat_durOf hp, toNat_durOf hlow]

/-- The first descriptor and what it leaves are the interval (R133). -/
theorem ticksOf_stepWord_add_firstCarry (hp : p ≤ Config.durMax) (ht : p < t) :
    ticksOf (stepWord t p) + firstCarry t p = t := by
  have hlow : firstLow t p ≤ t - p := Nat.min_le_left _ _
  rw [ticksOf_stepWord hp, firstCarry]
  omega

theorem firstCarry_eq (t p : Nat) : firstCarry t p = t - p - 32767 := by
  simp only [firstCarry, firstLow, Config.durMax]
  omega

/-! ### The continuations -/

/-- A remainder below 65534 is split evenly and exhausted (R134). -/
theorem lowWord_of_lt (h : n < 65534) : lowWord n = desc false (durOf (n - n / 2)) false (durOf (n / 2)) := by
  have hsplit : n < 2 * Config.durMax := h
  have hhalf : (n + 1) / 2 = n - n / 2 := by omega
  rw [lowWord, contHigh, contLow, if_pos hsplit, if_pos hsplit, hhalf]

theorem contCarry_of_lt (h : n < 65534) : contCarry n = 0 := if_pos h

/-- From a larger one the largest descriptor is taken (R134). -/
theorem lowWord_of_ge (h : 65534 ≤ n) : lowWord n = 0x7FFF7FFF#32 := by
  have hsplit : ¬ n < 2 * Config.durMax := Nat.not_lt.2 h
  rw [lowWord, contHigh, contLow, if_neg hsplit, if_neg hsplit]
  decide

theorem contCarry_of_ge (h : 65534 ≤ n) : contCarry n = n - 65534 := if_neg (Nat.not_lt.2 h)

/-- A continuation and what it leaves are the remainder (R134). -/
theorem ticksOf_lowWord_add_contCarry (n : Nat) : ticksOf (lowWord n) + contCarry n = n := by
  by_cases h : n < 65534
  · have hmax : Config.durMax = 32767 := rfl
    rw [lowWord_of_lt h, contCarry_of_lt h, ticksOf_desc, toNat_durOf (by omega), toNat_durOf (by omega)]
    omega
  · have hticks : ticksOf 0x7FFF7FFF#32 = 65534 := by decide
    rw [lowWord_of_ge (by omega), contCarry_of_ge (by omega), hticks]
    omega

theorem contCarry_lt (h : n ≠ 0) : contCarry n < n := by
  by_cases hlt : n < 65534
  · rw [contCarry_of_lt hlt]
    omega
  · rw [contCarry_of_ge (by omega)]
    omega

/-- A word that is low in both phases and not the marker: what a continuation is (R102, R103). -/
def IsContinuation (w : Desc) : Prop := w ≠ 0 ∧ lvl0 w = false ∧ lvl1 w = false

theorem IsContinuation.lowWord (h : n ≠ 0) : IsContinuation (lowWord n) := by
  have hticks := ticksOf_lowWord_add_contCarry n
  have hcarry := contCarry_lt h
  exact ⟨ne_zero_of_ticksOf (by omega), lvl0_desc _ _ _ _, lvl1_desc _ _ _ _⟩

theorem contWords_zero (fuel : Nat) : contWords fuel 0 = [] := by
  cases fuel <;> rfl

theorem contWords_succ (h : n ≠ 0) (fuel : Nat) :
    contWords (fuel + 1) n = lowWord n :: contWords fuel (contCarry n) := if_neg h

/-- With fuel enough the continuations of a remainder sum to it, each is a continuation, and their number is the remainder
over 65534, rounded up (R138). -/
theorem contWords_spec (fuel n : Nat) (hfuel : n ≤ fuel) :
    ((contWords fuel n).map ticksOf).sum = n ∧ (∀ w ∈ contWords fuel n, IsContinuation w) ∧
      (contWords fuel n).length = (n + 65533) / 65534 := by
  induction fuel generalizing n with
  | zero =>
    obtain rfl := Nat.le_zero.1 hfuel
    simp [contWords]
  | succ fuel ih =>
    by_cases hzero : n = 0
    · rw [hzero, contWords_zero]
      simp
    have hticks := ticksOf_lowWord_add_contCarry n
    have hlt := contCarry_lt hzero
    obtain ⟨hsum, hwords, hlength⟩ := ih (contCarry n) (by omega)
    rw [contWords_succ hzero]
    refine ⟨?sum, ?words, ?length⟩
    case sum => rw [List.map_cons, List.sum_cons, hsum, hticks]
    case words => exact List.forall_mem_cons.2 ⟨.lowWord hzero, hwords⟩
    case length =>
      rw [List.length_cons, hlength]
      by_cases hsmall : n < 65534
      · rw [contCarry_of_lt hsmall]
        omega
      · rw [contCarry_of_ge (by omega)]
        omega

/-- Settles O37: the first descriptor leaves `firstCarry`, and its continuations are as `contWords_spec` says. -/
theorem intervalIsEncodedExactly : Obligations.IntervalIsEncodedExactly := by
  intro t p hpos hp ht
  have hticks := ticksOf_stepWord_add_firstCarry hp ht
  have hfirst := ticksOf_stepWord (t := t) hp
  obtain ⟨hsum, hwords, hlength⟩ := contWords_spec (firstCarry t p) (firstCarry t p) (Nat.le_refl _)
  refine ⟨?sum, ?words, ⟨_, rfl, lvl0_desc _ _ _ _, ?high, fun w hw => ?low⟩, ?length⟩
  case sum => rw [intervalWords, List.map_cons, List.sum_cons, hsum, hticks]
  case words =>
    refine List.forall_mem_cons.2 ⟨⟨ne_zero_of_ticksOf (by omega), lvl1_desc _ _ _ _, toNat_dur_le _, toNat_dur_le _⟩,
      fun w hw => ?_⟩
    obtain ⟨hne, -, hlvl1⟩ := hwords w hw
    exact ⟨hne, hlvl1, toNat_dur_le _, toNat_dur_le _⟩
  case high => rw [stepWord, dur0_desc, toNat_durOf hp]
  case low =>
    obtain ⟨-, hlvl0, -⟩ := hwords w hw
    exact hlvl0
  case length =>
    rw [intervalWords, List.length_cons, hlength, firstCarry_eq]
    split <;> omega

end Sys2Proof.Machine
end

section
/-! The steps of the encoder: which one is enabled while the worker fills a unit (R132; O18), and what ENC_FIRST, ENC_CONT
and ENC_END do to the state (R133 to R136; O19, O20, O21). -/

namespace Sys2Proof.Machine

variable {s : State} {u : Nat}

/-! ### The choice in FILL -/

section
variable (hstate : s.wkState = .fill) (hunit : s.wkUnit = some u)
include hstate hunit

/-- In FILL the worker's choice is among the four fill steps (R132). -/
theorem State.workerChoice_of_fill : s.workerChoice =
    if s.canNext u then some .wkNext
    else if s.canEncCont u then some (.encCont (BitVec.ofNat 8 u))
    else if s.canEncFirst u then some (.encFirst (BitVec.ofNat 8 u))
    else if s.canEncEnd u then some (.encEnd (BitVec.ofNat 8 u))
    else none := by
  simp [State.workerChoice, State.canTake, State.canArmPass, hstate, hunit]

variable (hlive : s.workerLive = true) (hsetup : (s.unit u).setup = true)
include hlive hsetup

theorem State.canFill_eq : s.canFill u = !s.full u := by
  simp [State.canFill, hstate, hunit, hlive, hsetup]

theorem State.canNext_eq : s.canNext u = (s.full u || s.drained u) := by
  simp [State.canNext, hstate, hunit, hlive, hsetup]

end

theorem State.drained_iff : s.drained u = true ↔
    (s.unit u).stepsRemaining = 0 ∧ (s.unit u).pendingTicks = 0 ∧ (s.unit u).endEmitted = true := by
  simp [State.drained, and_assoc]

/-- Settles O18: a full ring closes the three encoder steps and opens WK_NEXT; with room the train's counters tell the
other cases apart, the drained train first. -/
theorem exactlyOneFillStepIsEnabled : Obligations.ExactlyOneFillStepIsEnabled := by
  intro s u hlive hstate hunit _ hsetup
  have hfill := State.canFill_eq hstate hunit hlive hsetup
  have hnext := State.canNext_eq hstate hunit hlive hsetup
  have hchoice := State.workerChoice_of_fill hstate hunit
  refine ⟨fun h => ?next, fun hfull hpending => ?cont, fun hfull hpending hsteps => ?first,
    fun hfull hpending hsteps hended => ?last⟩
  case next =>
    have hleave : s.canNext u = true := by rwa [hnext, Bool.or_eq_true]
    refine ⟨by rw [hchoice, if_pos hleave], hleave, ?_⟩
    obtain hfull | hdrained := h
    · simp [State.canEncCont, State.canEncFirst, State.canEncEnd, hfill, hfull]
    · obtain ⟨hsteps, hpending, hended⟩ := State.drained_iff.1 hdrained
      simp [State.canEncCont, State.canEncFirst, State.canEncEnd, hsteps, hpending, hended]
  case cont =>
    simp only [BitVec.ofNat_eq_ofNat] at hpending
    simp [hchoice, hnext, hfill, hfull, State.drained, State.canEncCont, State.canEncFirst, State.canEncEnd, hpending]
  case first =>
    simp only [BitVec.ofNat_eq_ofNat] at hsteps
    simp [hchoice, hnext, hfill, hfull, State.drained, State.canEncCont, State.canEncFirst, State.canEncEnd, hpending,
      hsteps]
  case last =>
    simp [hchoice, hnext, hfill, hfull, State.drained, State.canEncCont, State.canEncFirst, State.canEncEnd, hpending,
      hsteps, hended]

/-! ### The three steps -/

theorem exec_encFirst {v : BitVec 8} (h : s.canEncFirst v.toNat = true) :
    exec (.encFirst v) s = .next (s.encodeFirst v.toNat (s.unit v.toNat).nextSample) := if_pos h

theorem exec_encCont {v : BitVec 8} {n : Nat} (h : s.canEncCont v.toNat = true)
    (hn : n = (s.unit v.toNat).pendingTicks.toNat) : exec (.encCont v) s =
      .next (s.modUnit v.toNat fun x => (x.push s.params (lowWord n)).carry (contCarry n)) := by
  subst hn
  exact (if_pos h).trans (congrArg _ (State.modUnit_modUnit s v.toNat _ _))

theorem exec_encEnd {v : BitVec 8} (h : s.canEncEnd v.toNat = true) : exec (.encEnd v) s =
    .next (s.modUnit v.toNat fun x => { x.push s.params marker with endEmitted := true }) :=
  (if_pos h).trans (congrArg _ (State.modUnit_modUnit s v.toNat _ _))

/-- Settles O19, sample by sample: in the contract, not longer than the pulse, too large. -/
theorem encFirstPushesTheFirstDescriptor : Obligations.EncFirstPushesTheFirstDescriptor := by
  intro s u h
  rw [exec_encFirst h]
  refine ⟨fun ⟨hpulse, hlimit⟩ => ?valid, fun hshort hlimit => ?short, fun hover => ?overflow⟩
  case valid =>
    rw [State.encodeFirst_modUnit hpulse hlimit]
    simp only [UnitState.carry, firstCarry_eq, Nat.sub_eq_zero_iff_le]
    rfl
  case short =>
    rw [State.encodeFirst_short hshort hlimit]
    rfl
  case overflow =>
    rw [State.encodeFirst_overflow hover]
    rfl

/-- Settles O20, by the two splits of a remainder. -/
theorem encContPushesAContinuation : Obligations.EncContPushesAContinuation := by
  intro s u p h hp
  rw [exec_encCont h hp]
  refine ⟨fun hlt => ?split, fun hge => ?largest⟩
  case split =>
    rw [lowWord_of_lt hlt, contCarry_of_lt hlt]
    rfl
  case largest =>
    have hlast : p - 65534 = 0 ↔ p = 65534 := by omega
    rw [lowWord_of_ge hge, contCarry_of_ge hge]
    simp only [UnitState.carry, hlast]
    rfl

/-- Settles O21: the push and the mark are one update of the unit. -/
theorem encEndPushesTheMarker : Obligations.EncEndPushesTheMarker := by
  intro s u h
  rw [exec_encEnd h]
  rfl

end Sys2Proof.Machine
end

section
/-! The boundary's conversion of a sample to ticks (R131; O39). -/

namespace Sys2Proof.Machine

theorem Ratio.isPos_iff {r : Ratio} : r.isPos = true ↔ 0 < r.num ∧ 0 < r.den := by
  simp [Ratio.isPos]

/-- Settles O39: the numbers are not negative, and the quotient of the naturals is rounded down. -/
theorem sampleTicksAreTheWholePartOfTheTime : Obligations.SampleTicksAreTheWholePartOfTheTime := by
  intro s t n hn hnum hden hpos
  obtain ⟨hnum', -⟩ := Ratio.isPos_iff.1 hpos
  have hunit : 0 < t.den * n.num.toNat := Nat.mul_pos hden (Int.lt_toNat.2 hnum')
  have hseconds : t.num.natAbs = t.num.toNat := by omega
  have hnanos : n.num.natAbs = n.num.toNat := by omega
  subst hn
  rw [hseconds, hnanos, State.sampleTicks, ticksOfSeconds]
  exact ⟨Nat.div_mul_le_self _ _, Nat.mul_comm _ (_ + 1) ▸ Nat.lt_mul_div_succ _ hunit⟩

end Sys2Proof.Machine
end

section
/-! The step pulses of a unit, output, in the window, in the ring and still to be encoded, taken together (R48, R136, R137):
each update of a unit but a load, a halt and the end of a train keeps them (O53). -/

namespace Sys2Proof.Machine

variable {p : Params} {x y : UnitState} {n k c : Nat} {w : Desc} {ws q : List Desc}

/-! ### The pulses a descriptor carries -/

theorem pulsesIn_append (a b : List Desc) : pulsesIn (a ++ b) = pulsesIn a + pulsesIn b := by
  simp [pulsesIn]

theorem pulsesIn_singleton (w : Desc) : pulsesIn [w] = pulsesOf w := by
  simp [pulsesIn]

theorem pulsesIn_take_add_drop (q : List Desc) (k : Nat) : pulsesIn (q.take k) + pulsesIn (q.drop k) = pulsesIn q := by
  rw [← pulsesIn_append, List.take_append_drop]

/-- The first descriptor of a step carries its one pulse, where the pulse width is one a phase can hold (R8, R136). -/
theorem pulsesOf_stepWord (t : Nat) (hpos : 1 ≤ n) (h : n ≤ Config.durMax) : pulsesOf (stepWord t n) = 1 := by
  have hdur := durOf_ne_zero hpos h
  simp_all [pulsesOf, stepWord]

/-- A continuation carries none. -/
theorem pulsesOf_lowWord (n : Nat) : pulsesOf (lowWord n) = 0 := by
  simp [pulsesOf, lowWord]

theorem pulsesOf_marker : pulsesOf marker = 0 := by decide

/-- Outputting a descriptor adds its pulses to the trace (R48, R181). -/
theorem UnitState.pulsesOut_output (x : UnitState) (p : Params) (w : Desc) :
    (x.output p w).pulsesOut = x.pulsesOut + pulsesOf w := by
  rw [UnitState.output_eq]
  simp [UnitState.pulsesOut, pulsesOf, List.countP_cons, Nat.add_comm]

/-! ### The steps not pushed yet -/

theorem UnitState.stepsUnpushed_of_first (h : x.pendingTicks = 0) : x.stepsUnpushed = x.stepsRemaining.toNat := by
  rw [UnitState.stepsUnpushed, if_pos h, Nat.sub_zero]

theorem UnitState.stepsUnpushed_of_pending (h : x.pendingTicks ≠ 0) :
    x.stepsUnpushed = x.stepsRemaining.toNat - 1 := by
  rw [UnitState.stepsUnpushed, if_neg h]

/-- Whether ticks of it are left or not, the step whose descriptor was just pushed is no longer to be pushed (R136). -/
theorem UnitState.stepsUnpushed_carry (hsteps : x.stepsRemaining ≠ 0) (hc : c < 2 ^ 32) :
    (x.carry c).stepsUnpushed = x.stepsRemaining.toNat - 1 := by
  by_cases hzero : c = 0
  · have hone : (1 : BitVec 32) ≤ x.stepsRemaining := by bv_omega
    rw [UnitState.stepsUnpushed_of_first (by rw [hzero]; rfl), UnitState.carry_stepsRemaining, if_pos hzero,
      BitVec.toNat_sub_of_le hone]
    rfl
  · have hpending : BitVec.ofNat 32 c ≠ 0 := fun h => by
      rw [← BitVec.toNat_inj, BitVec.toNat_ofNat, Nat.mod_eq_of_lt hc] at h
      exact hzero h
    rw [UnitState.stepsUnpushed_of_pending hpending, UnitState.carry_stepsRemaining, if_neg hzero]

/-! ### The pulses of a unit -/

/-- The descriptors the channel has still to fetch: those of the window while it runs, none otherwise. -/
def UnitState.toFetch (p : Params) (x : UnitState) : Option (List Desc) := if x.txRun then x.window p else some []

/-- The unit's step pulses, output, in the window, in the ring and still to be encoded, are `n` together. -/
def HasPulses (p : Params) (x : UnitState) (n : Nat) : Prop :=
  ∃ ws q, x.toFetch p = some ws ∧ x.queue p = some q ∧ x.pulsesOut + pulsesIn ws + pulsesIn q + x.stepsUnpushed = n

theorem pulseTotal_eq_some_iff {s : State} {u : Nat} : s.pulseTotal u = some n ↔ HasPulses s.params (s.unit u) n := by
  have hwin : s.winContents u = (s.unit u).toFetch s.params := rfl
  unfold State.pulseTotal HasPulses
  rw [hwin, State.ringContents_eq]
  cases (s.unit u).toFetch s.params <;> cases (s.unit u).queue s.params <;> simp

theorem UnitState.toFetch_of_run (h : x.txRun = true) : x.toFetch p = x.window p := if_pos h

theorem UnitState.toFetch_of_not_run (h : x.txRun = false) : x.toFetch p = some [] := by
  simp [UnitState.toFetch, h]

/-- The pulses depend on the two queues, the trace and the train's counters only. -/
theorem HasPulses.congr (h : HasPulses p x n) (hwin : y.toFetch p = x.toFetch p) (hring : y.queue p = x.queue p)
    (htrace : y.pulsesOut = x.pulsesOut) (hsteps : y.stepsUnpushed = x.stepsUnpushed) : HasPulses p y n := by
  unfold HasPulses
  rwa [hwin, hring, htrace, hsteps]

/-! ### The updates of one unit -/

/-- A push adds the pulses of its word (R150). -/
theorem HasPulses.push (hx : PointersIn p x) (hroom : (x.head + 1) % p.ringCap ≠ x.tail) (h : HasPulses p x n)
    (w : Desc) : HasPulses p (x.push p w) (n + pulsesOf w) := by
  obtain ⟨ws, q, hws, hq, hn⟩ := h
  have hsteps : (x.push p w).stepsUnpushed = x.stepsUnpushed := rfl
  have htrace : (x.push p w).pulsesOut = x.pulsesOut := rfl
  refine ⟨ws, q ++ [w], hws, hx.queue_push hroom hq w, ?_⟩
  rw [pulsesIn_append, pulsesIn_singleton, hsteps, htrace]
  omega

/-- Counting a step, or leaving ticks of it pending, takes the pulse of the step, if it was still to be pushed (R136). -/
theorem HasPulses.carry (h : HasPulses p x (n + k)) (hsteps : x.stepsRemaining ≠ 0) (hc : c < 2 ^ 32)
    (hk : x.stepsRemaining.toNat - 1 + k = x.stepsUnpushed) : HasPulses p (x.carry c) n := by
  obtain ⟨ws, q, hws, hq, hn⟩ := h
  have htrace : (x.carry c).pulsesOut = x.pulsesOut := rfl
  refine ⟨ws, q, hws, hq, ?_⟩
  rw [htrace, UnitState.stepsUnpushed_carry hsteps hc]
  omega

/-- The output of the word at the front of the window moves its pulses to the trace (R181). -/
theorem HasPulses.output (h : HasPulses p x n) (hrun : x.txRun = true) (hwin : x.window p = some (w :: ws)) :
    HasPulses p (x.output p w) n := by
  obtain ⟨ws', q, hws, hq, hn⟩ := h
  obtain rfl : w :: ws = ws' := Option.some.inj (hwin.symm.trans ((UnitState.toFetch_of_run hrun).symm.trans hws))
  have hsteps : (x.output p w).stepsUnpushed = x.stepsUnpushed := rfl
  refine ⟨ws, q, (UnitState.toFetch_of_run (x := x.output p w) hrun).trans (UnitState.window_output hwin w),
    (UnitState.queue_output x w).trans hq, ?_⟩
  rw [UnitState.pulsesOut_output, hsteps]
  rw [← List.singleton_append, pulsesIn_append, pulsesIn_singleton] at hn
  omega

/-- Taking the front of the ring to the end of what the channel has to fetch keeps the pulses. -/
theorem HasPulses.takeFront (hx : PointersIn p x) (h : HasPulses p x n) (hcount : ws.length ≤ x.outstanding p)
    (hws : Memory.readMany x.ring p.ringCap x.tail ws.length = some ws)
    (hwin : ∀ v, x.toFetch p = some v → y.toFetch p = some (v ++ ws)) (hring : y.queue p = (x.take p ws.length).queue p)
    (htrace : y.pulsesOut = x.pulsesOut) (hsteps : y.stepsUnpushed = x.stepsUnpushed) : HasPulses p y n := by
  obtain ⟨v, q, hv, hq, hn⟩ := h
  have hfront : q.take ws.length = ws := Option.some.inj ((UnitState.queue_oldest hq hcount).symm.trans hws)
  have hsplit := pulsesIn_take_add_drop q ws.length
  rw [hfront] at hsplit
  refine ⟨v ++ ws, q.drop ws.length, hwin v hv, hring.trans (hx.queue_take hq hcount), ?_⟩
  rw [htrace, hsteps, pulsesIn_append]
  omega

/-- Arming a halted channel moves the front of the ring to the window (R160). -/
theorem HasPulses.arm (hx : PointersIn p x) (h : HasPulses p x n) (hrun : x.txRun = false)
    (hfit : ws.length ≤ p.winSize) (hcount : ws.length ≤ x.outstanding p)
    (hws : Memory.readMany x.ring p.ringCap x.tail ws.length = some ws) : HasPulses p (x.arm p ws) n := by
  refine h.takeFront hx hcount hws (fun v hv => ?_) rfl rfl rfl
  obtain rfl : [] = v := Option.some.inj ((UnitState.toFetch_of_not_run hrun).symm.trans hv)
  exact (UnitState.toFetch_of_run rfl).trans (UnitState.window_arm hfit)

/-- A refill of a running channel moves the front of the ring behind the window (R196). -/
theorem HasPulses.refill (hx : UnitInv p x) (h : HasPulses p x n) (hrun : x.txRun = true)
    (hfit : x.txAvail + ws.length ≤ p.winSize) (hcount : ws.length ≤ x.outstanding p)
    (hws : Memory.readMany x.ring p.ringCap x.tail ws.length = some ws) : HasPulses p (x.refill p ws) n := by
  refine h.takeFront hx.pointers hcount hws (fun v hv => ?_) rfl rfl rfl
  rw [UnitState.toFetch_of_run hrun] at hv
  exact (UnitState.toFetch_of_run (x := x.refill p ws) hrun).trans (UnitState.window_refill hv (hx.refillAt hrun) hfit)

variable {s : State} {u : Nat} {i : Instr}

/-! ### The operations -/

theorem HasPulses.modUnit {v : Nat} {f : UnitState → UnitState} (h : HasPulses p (s.unit u) n)
    (hf : v = u → u < s.nstep → HasPulses p (f (s.unit u)) n) : HasPulses p ((s.modUnit v f).unit u) n := by
  rw [State.unit_modUnit]
  split
  · next huv =>
    obtain ⟨rfl, hu⟩ := huv
    exact hf rfl hu
  · exact h

/-- An operation that is no MOVE, no halt, no encoder step, no arm, no threshold service and no transmitter step of the
unit touches none of its pulses. -/
theorem UnitUpdate.hasPulses (h : UnitUpdate s u i y) (hn : HasPulses p (s.unit u) n) (hmove : ¬ IsMoveOf i u)
    (hhalt : ¬ MayHalt i u) (hencode : ¬ IsEncodeOf i u) (harm : ¬ IsArmOf s i u) (hthreshold : ¬ IsThresholdOf i u)
    (htx : ¬ IsTxOf s i u) : HasPulses p y n := by
  cases h with
  | stay => exact hn
  | claim | drive | call | die => exact hn.congr rfl rfl rfl rfl
  | load names => exact absurd ⟨_, _, _, rfl, names⟩ hmove
  | halt halts => exact absurd halts hhalt
  | first names => exact absurd ⟨_, .inl rfl, names⟩ hencode
  | more names => exact absurd ⟨_, .inr (.inl rfl), names⟩ hencode
  | last names => exact absurd ⟨_, .inr (.inr rfl), names⟩ hencode
  | arm serves => exact absurd ⟨rfl, serves⟩ harm
  | output tx => exact absurd tx htx
  | endTrain tx => exact absurd tx htx
  | refill names => exact absurd ⟨_, rfl, names⟩ hthreshold
  | clear names => exact absurd ⟨_, rfl, names⟩ hthreshold

theorem ChannelInv.pulse_bounds (hs : ChannelInv s) : 1 ≤ s.params.pulse ∧ s.params.pulse ≤ Config.durMax := by
  have h := hs.params
  simp only [State.paramsOk, Params.ok, Bool.and_eq_true, decide_eq_true_eq] at h
  obtain ⟨⟨⟨-, hpos⟩, hle⟩, -⟩ := h
  exact ⟨hpos, hle⟩

/-- ENC_FIRST pushes the pulse of the step it takes up, and nothing where the sample is out of the contract (R133, R136). -/
theorem HasPulses.encodeFirst {v m : Nat} (hs : ChannelInv s) (hn : HasPulses s.params (s.unit u) n)
    (hfirst : s.canEncFirst v = true) : HasPulses s.params ((s.encodeFirst v m).unit u) n := by
  obtain ⟨hfill, hpending, hsteps⟩ := State.canEncFirst_iff.1 hfirst
  obtain ⟨hpos, hle⟩ := hs.pulse_bounds
  by_cases hover : Config.tickLimit ≤ m
  · rw [State.encodeFirst_overflow hover, State.unit_faultTickOverflow]
    exact hn.modUnit fun _ _ => hn.congr rfl rfl rfl rfl
  by_cases hshort : m ≤ s.params.pulse
  · rw [State.encodeFirst_short hshort (by omega), State.unit_faultEncShort]
    exact hn.modUnit fun _ _ => hn.congr rfl rfl rfl rfl
  rw [State.encodeFirst_modUnit (by omega) (by omega)]
  refine hn.modUnit fun hv hu => ?_
  subst hv
  obtain ⟨hhead, htail, hoff, hfetch, havail⟩ := (hs.units v hu).pointers
  have hcalled : HasPulses s.params (s.unit v).called n := hn.congr rfl rfl rfl rfl
  have hpushed := HasPulses.push (x := (s.unit v).called) ⟨hhead, htail, hoff, hfetch, havail⟩
    (State.full_eq_false (State.not_full_of_canFill hfill)) hcalled (stepWord m s.params.pulse)
  rw [pulsesOf_stepWord m hpos hle] at hpushed
  have hlimit : Config.tickLimit = 2 ^ 32 := rfl
  have hcarry : firstCarry m s.params.pulse < 2 ^ 32 := by
    rw [firstCarry_eq]
    omega
  have hone : (s.unit v).stepsRemaining.toNat ≠ 0 := fun hzero => hsteps (BitVec.eq_of_toNat_eq hzero)
  exact hpushed.carry hsteps hcarry ((Nat.sub_one_add_one hone).trans (UnitState.stepsUnpushed_of_first hpending).symm)

/-- ENC_CONT pushes a word without a pulse (R134, R136). -/
theorem HasPulses.encodeCont {v : Nat} (hs : ChannelInv s) (hn : HasPulses s.params (s.unit u) n)
    (hcont : s.canEncCont v = true) : HasPulses s.params
      (((s.ringPush v (lowWord (s.unit v).pendingTicks.toNat)).modUnit v
        fun x => x.carry (contCarry (s.unit v).pendingTicks.toNat)).unit u) n := by
  obtain ⟨hfill, hpending⟩ := State.canEncCont_iff.1 hcont
  rw [State.ringPush_eq, State.modUnit_modUnit]
  refine hn.modUnit fun hv hu => ?_
  subst hv
  have hx := hs.units v hu
  have hpushed := hn.push hx.pointers (State.full_eq_false (State.not_full_of_canFill hfill))
    (lowWord (s.unit v).pendingTicks.toNat)
  rw [pulsesOf_lowWord] at hpushed
  have hticks : (s.unit v).pendingTicks.toNat ≠ 0 := fun hzero => hpending (BitVec.eq_of_toNat_eq hzero)
  have hcarry := (contCarry_lt hticks).trans (s.unit v).pendingTicks.isLt
  exact hpushed.carry (hx.pending hpending) hcarry (UnitState.stepsUnpushed_of_pending hpending).symm

/-- ENC_END pushes the marker, which has none (R135). -/
theorem HasPulses.encodeEnd {v : Nat} (hs : ChannelInv s) (hn : HasPulses s.params (s.unit u) n)
    (hend : s.canEncEnd v = true) : HasPulses s.params
      (((s.ringPush v marker).modUnit v fun x => { x with endEmitted := true }).unit u) n := by
  obtain ⟨hfill, -⟩ := State.canEncEnd_iff.1 hend
  rw [State.ringPush_eq, State.modUnit_modUnit]
  refine hn.modUnit fun hv hu => ?_
  subst hv
  have hpushed := hn.push (hs.units v hu).pointers (State.full_eq_false (State.not_full_of_canFill hfill)) marker
  rw [pulsesOf_marker] at hpushed
  exact hpushed.congr rfl rfl rfl rfl

/-- WK_ARM finds the channel of an unarmed unit halted (R29, R160). -/
theorem HasPulses.armUnit {v : Nat} (hs : ChannelInv s) (hn : HasPulses s.params (s.unit u) n)
    (hready : s.armReady v = true) (hws : s.ringOldest v (min (s.count v) s.params.winSize) = some ws) :
    HasPulses s.params ((s.armUnit v ws).unit u) n := by
  rw [State.armUnit_eq]
  refine hn.modUnit fun hv hu => ?_
  subst hv
  have hx := hs.units v hu
  have hlen := State.ringOldest_length hws
  have hhalted : (s.unit v).txRun = false := by
    simp only [State.armReady, Bool.and_eq_true, Bool.not_eq_true'] at hready
    obtain ⟨⟨-, hunarmed⟩, -⟩ := hready
    exact Bool.eq_false_iff.2 fun hrun => by simp [hx.runsArmed hrun] at hunarmed
  exact hn.arm hx.pointers hhalted (hlen ▸ Nat.min_le_right _ _) (hlen ▸ Nat.min_le_left _ _) (hlen ▸ hws)

/-- H_THR of a running channel finds room for what it copies (R86, R196). -/
theorem HasPulses.refillUnit {v : Nat} (hs : ChannelInv s) (hn : HasPulses s.params (s.unit u) n)
    (hrun : v = u → (s.unit u).txRun = true) (hthr : (s.unit v).thrPending = true)
    (hws : s.ringOldest v (min s.params.half (s.count v)) = some ws) : HasPulses s.params ((s.refill v ws).unit u) n := by
  rw [State.refill_eq]
  refine hn.modUnit fun hv hu => ?_
  subst hv
  have hx := hs.units v hu
  have hlen := State.ringOldest_length hws
  have hocc := hx.occupancy.of_latched hthr
  have hsize : s.params.winSize = 2 * s.params.half := rfl
  exact hn.refill hx (hrun rfl) (by omega) (hlen ▸ Nat.min_le_right _ _) (hlen ▸ hws)

/-- A transmitter that may fetch has the word fetched at the front of what it has to fetch (R83). -/
theorem ChannelInv.window_eq_cons (hs : ChannelInv s) (hu : u < s.nstep) (hready : s.txReady u = true)
    (hw : s.fetchWord u = some w) : ∃ ws, (s.unit u).window s.params = some (w :: ws) := by
  obtain ⟨hrun, havail, -⟩ := State.txReady_iff.1 hready
  obtain ⟨ws, hws⟩ := (hs.units u hu).exists_window hrun
  cases ws with
  | nil => exact absurd (Memory.readMany_length hws) (Nat.ne_of_lt havail)
  | cons v ws =>
    have hfront := Memory.readMany_get hws 0 (Nat.zero_lt_succ _)
    obtain rfl : w = v := Option.some.inj (hw.symm.trans hfront)
    exact ⟨ws, hws⟩

/-- A transmitter outputs the word it fetched, or stops at it with a fault and outputs nothing (R181, R188). -/
theorem HasPulses.consume {v : Nat} (hs : ChannelInv s) (hn : HasPulses s.params (s.unit u) n)
    (hready : s.txReady v = true) (hw : v = u → w ≠ marker ∧ s.fetchWord u = some w) :
    HasPulses s.params ((s.consume v w).unit u) n := by
  by_cases hmarker : w = marker
  · rw [hmarker, State.consume_marker]
    exact hn.modUnit fun hv _ => absurd hmarker (hw hv).1
  rw [State.consume_of_ne hmarker]
  cases hzero : bothZero w
  · rw [State.transmit_valid hzero]
    refine hn.modUnit fun hv hu => ?_
    subst hv
    obtain ⟨ws, hws⟩ := hs.window_eq_cons hu hready (hw rfl).2
    exact hn.output (State.txReady_iff.1 hready).1 hws
  · rw [State.transmit_bad hzero, State.unit_faultBadDescriptor]
    exact hn.modUnit fun _ _ => hn.congr rfl rfl rfl rfl

/-- Settles O53, operation by operation: an encoder step trades a step to be pushed for the pulse of its descriptor, an arm
and a threshold service move the front of the ring to the end of the window, and an output the front of the window to the
trace. -/
theorem stepPulsesAreConserved : Obligations.StepPulsesAreConserved := by
  intro s t i u n hs h hn hmove hhalt hend hthr hfetched
  rw [pulseTotal_eq_some_iff, (exec_marksKept h).params]
  rw [pulseTotal_eq_some_iff] at hn
  cases i with
  | encFirst v =>
    obtain rfl | ⟨hfirst, rfl⟩ := execEncFirst_next h
    · exact hn
    · exact hn.encodeFirst hs hfirst
  | encCont v =>
    obtain rfl | ⟨hcont, rfl⟩ := execEncCont_next h
    · exact hn
    · exact hn.encodeCont hs hcont
  | encEnd v =>
    obtain rfl | ⟨hlast, rfl⟩ := execEncEnd_next h
    · exact hn
    · exact hn.encodeEnd hs hlast
  | wkArm =>
    obtain rfl | ⟨v, -, -, ⟨-, rfl⟩ | ⟨hready, ws, hws, rfl⟩⟩ := execWkArm_next h
    · exact hn
    · rwa [State.unit_leaveArm]
    · rw [State.unit_leaveArm]
      exact hn.armUnit hs hready hws
  | txDesc v =>
    obtain rfl | ⟨hready, w, hw, hne, rfl⟩ := execTxDesc_next h
    · exact hn
    · rw [← State.consume_of_ne hne]
      exact hn.consume hs hready fun hv => ⟨hne, hv ▸ hw⟩
  | txEnd v =>
    obtain rfl | ⟨-, -, rfl⟩ := execTxEnd_next h
    · exact hn
    · exact hn.modUnit fun hv _ => absurd hv (hend v rfl)
  | hThr v =>
    obtain rfl | ⟨hlatch, ⟨harmed, ws, hws, rfl⟩ | ⟨-, rfl⟩⟩ := execHThr_next h
    · exact hn
    · have hrefill := hn.refillUnit hs (fun hv => hthr ⟨v, rfl, hv⟩ (hv ▸ harmed)) hlatch hws
      split
      · exact hrefill
      · rwa [State.unit_post]
    · exact hn.modUnit fun _ _ => hn.congr rfl rfl rfl rfl
  | descEnd =>
    obtain rfl | ⟨hready, rfl⟩ := execDescEnd_next h
    · exact hn
    · exact hn.consume hs hready (hfetched _ rfl)
  | descStep a b =>
    obtain rfl | ⟨hready, rfl⟩ := execDescStep_next h
    · exact hn
    · exact hn.consume hs hready (hfetched _ rfl)
  | descLow a b =>
    obtain rfl | ⟨hready, rfl⟩ := execDescLow_next h
    · exact hn
    · exact hn.consume hs hready (hfetched _ rfl)
  | setup | move | start | stop | wkTake | wkNext | hEnd =>
    exact (exec_unit h u).hasPulses hn hmove hhalt (by simp [IsEncodeOf]) (by simp [IsArmOf]) (by simp [IsThresholdOf])
      (by simp [IsTxOf])

end Sys2Proof.Machine
end

section
/-! The worker's own moves: which unit of a mask is scanned next (R9), and what WK_TAKE, WK_NEXT and WK_ARM do to the state
where they are enabled (R157, R159, R160; O16, O17, O23); an armed unit is not armed again (R161; O24). -/

namespace Sys2Proof.Machine

variable {s t : State} {u j : Nat} {m : Mask} {ws : List Desc}

/-! ### The scans of a mask -/

theorem lowbit_eq_some (h : IsLowBit m j) : lowbit m = some j := by
  obtain ⟨hbit, hlow⟩ := h
  rw [lowbit, List.find?_range_eq_some]
  exact ⟨hbit, List.mem_range.2 (lt_of_getLsbD hbit), fun k hk => by simp [hlow k hk]⟩

theorem nextbit_eq_some (h : IsNextBit m u j) : nextbit m u = some j := by
  obtain ⟨hlt, hbit, hnext⟩ := h
  rw [nextbit, List.find?_range_eq_some]
  refine ⟨by simp [hlt, hbit], List.mem_range.2 (lt_of_getLsbD hbit), fun k hk => ?_⟩
  by_cases huk : u < k
  · simp [hnext k huk hk]
  · simp [huk]

theorem nextbit_eq_none (h : NoNextBit m u) : nextbit m u = none := by
  rw [nextbit, List.find?_eq_none]
  intro k _
  by_cases huk : u < k
  · simp [h k huk]
  · simp [huk]

theorem State.leaveFill_of_next (h : nextbit s.wkMask u = some j) : s.leaveFill u = { s with wkUnit := some j } := by
  rw [State.leaveFill, h]

theorem State.leaveFill_of_last (h : nextbit s.wkMask u = none) :
    s.leaveFill u = { s with wkState := .armPass, wkUnit := lowbit s.wkMask } := by
  rw [State.leaveFill, h]

theorem State.leaveArm_of_next (h : nextbit s.wkMask u = some j) : s.leaveArm u = { s with wkUnit := some j } := by
  rw [State.leaveArm, h]

theorem State.leaveArm_of_last (h : nextbit s.wkMask u = none) :
    s.leaveArm u = { s with wkState := .wait, wkUnit := none } := by
  rw [State.leaveArm, h]

/-! ### What an enabled move of the worker answers -/

theorem exec_wkTake (h : s.canTake = true) : exec .wkTake s =
    .next { s with wkMask := s.workerSig, workerSig := 0, wkUnit := lowbit s.workerSig, wkState := .fill } := if_pos h

theorem exec_wkNext (hunit : s.wkUnit = some u) (h : s.canNext u = true) : exec .wkNext s = .next (s.leaveFill u) := by
  simp [exec, execWkNext, hunit, h]

theorem exec_wkArm_of_ready (hunit : s.wkUnit = some u) (h : s.canArmPass u = true) (hready : s.armReady u = true)
    (hws : s.ringOldest u (min (s.count u) s.params.winSize) = some ws) :
    exec .wkArm s = .next ((s.armUnit u ws).leaveArm u) := by
  simp [exec, execWkArm, hunit, h, hready, hws]

theorem exec_wkArm_of_not_ready (hunit : s.wkUnit = some u) (h : s.canArmPass u = true) (hready : s.armReady u = false) :
    exec .wkArm s = .next (s.leaveArm u) := by
  simp [exec, execWkArm, hunit, h, hready]

/-- Settles O16: a mask with a lowest bit is not empty, and the scan finds that bit. -/
theorem wkTakeLatchesTheMailbox : Obligations.WkTakeLatchesTheMailbox := by
  intro s u hlive hwait hlow
  have hsig : s.workerSig ≠ 0 := fun hzero => by simpa [hzero] using hlow.1
  have htake : s.canTake = true := by simpa [State.canTake, hlive, hwait] using hsig
  rw [exec_wkTake htake, lowbit_eq_some hlow]

/-- Settles O17, by whether the mask has a bit above the unit. -/
theorem wkNextLeavesTheUnit : Obligations.WkNextLeavesTheUnit := by
  intro s u hlive hstate hunit hdone
  have henabled : s.canNext u = true := by simpa [State.canNext, hlive, hstate, hunit, or_assoc] using hdone
  rw [exec_wkNext hunit henabled]
  refine ⟨fun n hnext => ?_, fun l hnone hlow => ?_⟩
  · rw [State.leaveFill_of_next (nextbit_eq_some hnext)]
  · rw [State.leaveFill_of_last (nextbit_eq_none hnone), lowbit_eq_some hlow]

/-! ### Arming a unit -/

theorem State.armReady_iff : s.armReady u = true ↔
    (s.unit u).setup = true ∧ (s.unit u).armed = false ∧ s.enough u = true := by
  simp [State.armReady, and_assoc]

/-- Arming leaves the bytes behind the copied descriptors as they are (R160). -/
theorem UnitState.read_arm_behind {p : Params} {x : UnitState} {b : Nat} (hfit : ws.length ≤ p.winSize)
    (hb : 4 * ws.length ≤ b) : Memory.read (x.arm p ws).win b = Memory.read x.win b := by
  refine Memory.read_writeMany_ne fun i hi => ?_
  rw [Nat.zero_add, Nat.mod_eq_of_lt (by omega)]
  omega

/-- Settles O23: the unit after an arm is the unit armed with the run copied, and the state after it differs besides in
where the worker goes. -/
theorem wkArmArmsAReadyUnit : Obligations.WkArmArmsAReadyUnit := by
  intro s u _ hlive hstate hunit
  have henabled : s.canArmPass u = true := by simp [State.canArmPass, hlive, hstate, hunit]
  refine ⟨fun ws hsetup hunarmed henough hws => ?ready, fun hnot => ?notReady⟩
  case ready =>
    have hready : s.armReady u = true := State.armReady_iff.2 ⟨hsetup, hunarmed, henough⟩
    have hlen : ws.length = min (s.count u) s.params.winSize := State.ringOldest_length hws
    have hfit : ws.length ≤ s.params.winSize := hlen ▸ Nat.min_le_right _ _
    have harmed : ((s.armUnit u ws).leaveArm u).unit u = (s.unit u).arm s.params ws := by
      rw [State.unit_leaveArm, State.armUnit_eq, State.unit_modUnit_same (State.lt_nstep_of_armReady hready)]
    refine ⟨_, exec_wkArm_of_ready hunit henabled hready hws, hlen, ?_, fun b hb => ?_, fun v hv => ?_, ?_,
      fun n hnext => ?_, fun hnone => ?_⟩
    · rw [harmed]
      exact UnitState.window_arm hfit
    · rw [harmed]
      exact UnitState.read_arm_behind hfit hb
    · rw [State.unit_leaveArm, State.armUnit_eq, State.unit_modUnit_ne hv]
    · rw [harmed]
      rfl
    · rw [State.leaveArm_of_next (s := s.armUnit u ws) (nextbit_eq_some hnext)]
      rfl
    · rw [State.leaveArm_of_last (s := s.armUnit u ws) (nextbit_eq_none hnone)]
      rfl
  case notReady =>
    have hready : s.armReady u = false := by
      rw [Bool.eq_false_iff, Ne, State.armReady_iff]
      rintro ⟨hsetup, hunarmed, henough⟩
      simp [hsetup, hunarmed, henough] at hnot
    rw [exec_wkArm_of_not_ready hunit henabled hready]
    refine ⟨fun n hnext => ?_, fun hnone => ?_⟩
    · rw [State.leaveArm_of_next (nextbit_eq_some hnext)]
    · rw [State.leaveArm_of_last (nextbit_eq_none hnone)]

/-- WK_ARM changes nothing of an armed unit (R161). -/
theorem UnitUpdate.wkArm_of_armed {y : UnitState} (h : UnitUpdate s u .wkArm y) (harmed : (s.unit u).armed = true) :
    y = s.unit u := by
  cases h with
  | stay => rfl
  | halt halts => simp [MayHalt] at halts
  | arm _ unarmed => simp [harmed] at unarmed
  | die tx | output tx | endTrain tx => simp [IsTxOf] at tx

/-- Settles O24: `armed` is written by a MOVE of the unit and by WK_ARM, which leaves an armed unit alone. -/
theorem armedUnitIsNeverRearmed : Obligations.ArmedUnitIsNeverRearmed := by
  intro s t i u harmed h
  have hupdate := exec_unit h u
  have harm : i = .wkArm → t.unit u = s.unit u := by
    rintro rfl
    exact hupdate.wkArm_of_armed harmed
  refine ⟨harm, fun hcleared => ?_⟩
  obtain hmove | ⟨hi, -⟩ := hupdate.owners.armed (by simp [harmed, hcleared])
  · exact hmove
  · simp [harm hi, harmed] at hcleared

end Sys2Proof.Machine
end

section
/-! The frame of the encoder steps in memory (R150; O22). -/

namespace Sys2Proof.Machine

variable {s t : State} {u : Nat} {y : UnitState}

/-- An encoder step touches no unit but its own. -/
theorem UnitUpdate.eq_of_encoder {i : Instr} {v : BitVec 8} (h : UnitUpdate s u i y)
    (hi : i = .encFirst v ∨ i = .encCont v ∨ i = .encEnd v) (hne : u ≠ v.toNat) : y = s.unit u := by
  cases h with
  | stay => rfl
  | call names | first names | more names | last names =>
    obtain rfl : _ = v := by simpa using hi
    exact absurd names.symm hne
  | halt halts => obtain rfl | rfl | rfl := hi <;> simp [MayHalt] at halts
  | die tx | output tx | endTrain tx => obtain rfl | rfl | rfl := hi <;> simp [IsTxOf] at tx
  | claim | load | drive | arm | refill | clear => simp at hi

/-- From `x` to `y` the window keeps its bytes, and the ring those outside the slot at `head`; `head` moves one slot on and a
word stands in the slot, or neither `head` nor the ring changes (R150). -/
structure SlotStored (p : Params) (x y : UnitState) : Prop where
  ring : ∀ b, b < 4 * (x.head % p.ringCap) ∨ 4 * (x.head % p.ringCap) + 4 ≤ b →
    Memory.read y.ring b = Memory.read x.ring b
  win : ∀ b, Memory.read y.win b = Memory.read x.win b
  slot : (y.head = x.head ∧ y.ring = x.ring) ∨
    (y.head = (x.head + 1) % p.ringCap ∧ ∃ w, Memory.readWord y.ring (x.head % p.ringCap) = some w)

theorem SlotStored.of_eq {p : Params} {x : UnitState} (hhead : y.head = x.head) (hring : y.ring = x.ring)
    (hwin : y.win = x.win) : SlotStored p x y :=
  ⟨fun _ _ => by rw [hring], fun _ => by rw [hwin], .inl ⟨hhead, hring⟩⟩

theorem SlotStored.push (p : Params) (x : UnitState) (w : Desc) : SlotStored p x (x.push p w) where
  ring _ hb := Memory.read_writeWord_ne _ w hb
  win _ := rfl
  slot := .inr ⟨rfl, w, Memory.readWord_writeWord_same _ _ w⟩

/-- Of the updates of a channel only a push is an encoder step's, besides those that touch neither space. -/
theorem ChannelUpdate.slotStored {i : Instr} (h : ChannelUpdate s u i y) (hmove : ¬ IsMoveOf i u)
    (harm : ¬ IsArmOf s i u) (hthreshold : ¬ IsThresholdOf i u) : SlotStored s.params (s.unit u) y := by
  cases h with
  | aside | halt | endTrain | clear => exact .of_eq rfl rfl rfl
  | output => exact .of_eq rfl (UnitState.ring_output _ _) (UnitState.win_output _ _)
  | push =>
    obtain ⟨hring, hwin, hslot⟩ := SlotStored.push s.params (s.unit u) _
    exact ⟨hring, hwin, hslot⟩
  | load move => exact absurd move hmove
  | arm arms => exact absurd arms harm
  | refill threshold => exact absurd threshold hthreshold

/-- Settles O22: an encoder step leaves every other unit alone and stores at most the slot at `head` of its own. -/
theorem encoderStepStoresOnlyTheSlotAtHead : Obligations.EncoderStepStoresOnlyTheSlotAtHead := by
  rintro s t i u hi h a rfl
  have hstored : SlotStored s.params (s.unit u.toNat) (t.unit u.toNat) := by
    refine (exec_channel h u.toNat).slotStored ?_ ?_ ?_ <;> obtain rfl | rfl | rfl := hi <;>
      simp [IsMoveOf, IsArmOf, IsThresholdOf]
  exact ⟨hstored.ring, hstored.win, fun v hv => (exec_unit h v).eq_of_encoder hi hv, hstored.slot⟩

end Sys2Proof.Machine
end

section
/-! The worker and the Synchronization State: no operation of the worker reads or writes it, answers, or is refused (R154;
O49). -/

namespace Sys2Proof.Machine

variable {s t r : State} {i : Instr} {u : Nat}

/-- The outcome with the Synchronization State of `r` in the state it answers. -/
def withSync (r : State) : Host.Outcome State Fault Refusal → Host.Outcome State Fault Refusal
  | .next t => .next (t.withSyncOf r)
  | .fault f => .fault f
  | .refused q => .refused q

theorem State.withSyncOf_self (s : State) : s.withSyncOf s = s := rfl

theorem State.leaveFill_withSyncOf (s r : State) (u : Nat) :
    (s.withSyncOf r).leaveFill u = (s.leaveFill u).withSyncOf r := by
  cases h : nextbit s.wkMask u with
  | some n => rw [State.leaveFill_of_next h]; exact State.leaveFill_of_next h
  | none => rw [State.leaveFill_of_last h]; exact State.leaveFill_of_last h

theorem State.leaveArm_withSyncOf (s r : State) (u : Nat) :
    (s.withSyncOf r).leaveArm u = (s.leaveArm u).withSyncOf r := by
  cases h : nextbit s.wkMask u with
  | some n => rw [State.leaveArm_of_next h]; exact State.leaveArm_of_next h
  | none => rw [State.leaveArm_of_last h]; exact State.leaveArm_of_last h

theorem State.encodeFirst_withSyncOf (s r : State) (u n : Nat) :
    (s.withSyncOf r).encodeFirst u n = (s.encodeFirst u n).withSyncOf r := by
  simp only [State.encodeFirst, apply_ite (State.withSyncOf · r)]
  rfl

/-- Every test and every update of the worker reads and writes outside the Synchronization State. -/
theorem exec_withSyncOf (hi : isWorkers i = true) (s r : State) :
    exec i (s.withSyncOf r) = withSync r (exec i s) := by
  have hunit : (s.withSyncOf r).wkUnit = s.wkUnit := rfl
  cases i with
  | wkTake =>
    simp only [exec, execWkTake, apply_ite (withSync r)]
    rfl
  | encFirst v =>
    simp only [exec, execEncFirst, apply_ite (withSync r), State.encodeFirst_withSyncOf]
    rfl
  | encCont v =>
    simp only [exec, execEncCont, apply_ite (withSync r)]
    rfl
  | encEnd v =>
    simp only [exec, execEncEnd, apply_ite (withSync r)]
    rfl
  | wkNext =>
    simp only [exec, execWkNext, hunit]
    cases s.wkUnit with
    | none => rfl
    | some u =>
      simp only [apply_ite (withSync r), State.leaveFill_withSyncOf]
      rfl
  | wkArm =>
    have holdest (u : Nat) : (s.withSyncOf r).ringOldest u
        (min ((s.withSyncOf r).count u) (s.withSyncOf r).params.winSize) =
      s.ringOldest u (min (s.count u) s.params.winSize) := rfl
    have harm (u : Nat) (ws : List Desc) : (s.withSyncOf r).armUnit u ws = (s.armUnit u ws).withSyncOf r := rfl
    simp only [exec, execWkArm, hunit, holdest, harm]
    cases s.wkUnit with
    | none => rfl
    | some u =>
      simp only [apply_ite (withSync r), State.leaveArm_withSyncOf]
      cases s.ringOldest u (min (s.count u) s.params.winSize) <;> rfl
  | setup | move | start | stop | txDesc | txEnd | hThr | hEnd | descEnd | descStep | descLow => simp [isWorkers] at hi

/-- The worker answers nothing and marks nothing refused (R154). -/
theorem exec_worker_silent (hi : isWorkers i = true) (h : exec i s = .next t) :
    t.events = s.events ∧ t.refused = s.refused := by
  cases i with
  | wkTake =>
    obtain rfl | ⟨-, rfl⟩ := execWkTake_next h <;> exact ⟨rfl, rfl⟩
  | encFirst v =>
    obtain rfl | ⟨-, rfl⟩ := execEncFirst_next h
    · exact ⟨rfl, rfl⟩
    · simp only [State.encodeFirst, apply_ite State.events, apply_ite State.refused]
      simp [State.ringPush]
  | encCont v =>
    obtain rfl | ⟨-, rfl⟩ := execEncCont_next h <;> exact ⟨rfl, rfl⟩
  | encEnd v =>
    obtain rfl | ⟨-, rfl⟩ := execEncEnd_next h <;> exact ⟨rfl, rfl⟩
  | wkNext =>
    obtain rfl | ⟨u, -, -, rfl⟩ := execWkNext_next h
    · exact ⟨rfl, rfl⟩
    · obtain ⟨n, -, h⟩ | ⟨-, h⟩ := s.leaveFill_cases u <;> rw [h] <;> exact ⟨rfl, rfl⟩
  | wkArm =>
    obtain rfl | ⟨u, -, -, ⟨-, rfl⟩ | ⟨-, ws, -, rfl⟩⟩ := execWkArm_next h
    · exact ⟨rfl, rfl⟩
    · obtain ⟨n, -, h⟩ | ⟨-, h⟩ := s.leaveArm_cases u <;> rw [h] <;> exact ⟨rfl, rfl⟩
    · obtain ⟨n, -, h⟩ | ⟨-, h⟩ := (s.armUnit u ws).leaveArm_cases u <;> rw [h] <;> exact ⟨rfl, rfl⟩
  | setup | move | start | stop | txDesc | txEnd | hThr | hEnd | descEnd | descStep | descLow => simp [isWorkers] at hi

/-- No operation is refused: a refused input is a next state with its mark (log 10). -/
theorem exec_ne_refused {q : Refusal} : exec i s ≠ .refused q := by
  intro h
  cases i with
  | setup | move | start | stop | wkTake | encFirst | encCont | encEnd | wkNext | wkArm | txDesc | txEnd | hThr | hEnd
  | descEnd | descStep | descLow =>
    simp only [exec, execSetup, execMove, execStart, execStop, execWkTake, execWkNext, execWkArm, execEncFirst,
      execEncCont, execEncEnd, execTxDesc, execTxEnd, execHThr, execHEnd, execDescEnd, execDescStep, execDescLow,
      waits] at h
    repeat' split at h
    all_goals cases h

/-- Settles O49: an operation of the worker commutes with the replacement of the Synchronization State; replaced by its own
it shows that the operation keeps it. -/
theorem workerNeverTouchesTheSyncState : Obligations.WorkerNeverTouchesTheSyncState := by
  intro s r i hi
  refine ⟨fun t h => ⟨?_, ?_, (exec_worker_silent hi h).1⟩, fun f h => ?_, fun q => exec_ne_refused⟩
  · rw [exec_withSyncOf hi, h]
    rfl
  · have hself := exec_withSyncOf hi s s
    rw [State.withSyncOf_self, h] at hself
    exact (Host.Outcome.next.inj hself).symm
  · rw [exec_withSyncOf hi, h]
    rfl

end Sys2Proof.Machine
end

section
/-! Who posts to the worker's mailbox: an accepted START and a threshold service that copies (R155; O50). -/

namespace Sys2Proof.Machine

variable {s t : State}

/-- A threshold service of an armed unit with a ring not empty copies a descriptor and posts the unit's bit (R196). -/
theorem exec_hThr_posts {v : BitVec 8} (hok : s.paramsOk = true) (hpending : (s.unit v.toNat).thrPending = true)
    (harmed : (s.unit v.toNat).armed = true) (hcount : s.count v.toNat ≠ 0) (h : exec (.hThr v) s = .next t) :
    t.workerSig = s.workerSig ||| unitBit v.toNat := by
  have hhalf : s.params.half ≠ 0 := fun hzero => by
    have hpos := Params.ok_winSize_pos hok
    simp [Params.winSize, hzero] at hpos
  simp only [exec, execHThr, hpending, harmed, if_true] at h
  split at h
  · next ws hws =>
    have hlen : ws.length ≠ 0 := by
      rw [State.ringOldest_length hws]
      omega
    rw [if_neg hlen] at h
    obtain rfl := Host.Outcome.next.inj h
    rfl
  · cases h

/-- Settles O50: the mailbox is written by START, H_THR and WK_TAKE only; what each writes is in the state it answers. -/
theorem onlyStartAndThresholdServicesSignal : Obligations.OnlyStartAndThresholdServicesSignal := by
  intro s t i h
  refine ⟨fun hne => ?changed, ?start, ?threshold⟩
  case changed =>
    obtain ⟨m, c, rfl⟩ | ⟨v, rfl⟩ | rfl := (exec_blockOwners h).workerSig hne
    · refine .inl ⟨m, c, rfl, ?_⟩
      obtain ⟨e, rfl⟩ | ⟨r, rfl⟩ | ⟨-, -, -, -, -, rfl⟩ := execStart_next h
      · exact absurd rfl hne
      · exact absurd rfl hne
      · rfl
    · refine .inr (.inl ⟨v, rfl, ?_⟩)
      obtain rfl | ⟨-, ⟨harmed, ws, hws, rfl⟩ | ⟨-, rfl⟩⟩ := execHThr_next h
      · exact absurd rfl hne
      · split at hne
        · exact absurd rfl hne
        · next hlen =>
          rw [if_neg hlen]
          rw [State.ringOldest_length hws] at hlen
          exact ⟨harmed, fun hzero => hlen (by rw [hzero, Nat.min_zero]), rfl⟩
      · exact absurd rfl hne
    · refine .inr (.inr ⟨rfl, ?_⟩)
      obtain rfl | ⟨-, rfl⟩ := execWkTake_next h
      · exact absurd rfl hne
      · rfl
  case start =>
    rintro m c rfl hfree hwaits
    obtain ⟨e, rfl⟩ | ⟨r, rfl⟩ | ⟨-, -, -, -, -, rfl⟩ := execStart_next h
    · simp [hfree] at hwaits
    · simp [hfree] at hwaits
    · rfl
  case threshold =>
    rintro v rfl hok hpending harmed hcount
    exact exec_hThr_posts hok hpending harmed hcount h

end Sys2Proof.Machine
end

section
/-! A service of the worker ends (R163; O54): the turns it can still take are bounded by a number that each of its steps
lowers. -/

namespace Sys2Proof.Machine

variable {s t : State} {i : Instr} {u j : Nat} {x y : UnitState}

/-! ### The worker's turn -/

/-- A turn of the worker, taken next, runs its choice (R13). -/
theorem step_worker (hok : s.paramsOk = true) (hrefused : s.refused = none) (h : s.workerChoice = some i) :
    step (s.pushTurn .worker) = exec i s.beginStep :=
  step_of_choice (s := s.pushTurn .worker) ⟨hok, hrefused⟩ (fetch_worker rfl) h

theorem State.workerTurns_succ {n : Nat} (h : step (s.pushTurn .worker) = .next t) :
    s.workerTurns (n + 1) = t.workerTurns n := by
  rw [State.workerTurns, h]

/-- The worker chooses among its own operations. -/
theorem isWorkers_of_workerChoice (h : s.workerChoice = some i) : isWorkers i = true := by
  unfold State.workerChoice at h
  split at h
  · obtain rfl := Option.some.inj h
    rfl
  · split at h
    · cases h
    · repeat' split at h
      all_goals cases h <;> rfl

/-! ### A state in which the worker serves -/

/-- What a run of the worker keeps: its own invariant, the channels', no refusal, and that it exists. -/
structure Serves (s : State) : Prop where
  worker : WorkerInv s
  channel : ChannelInv s
  refused : s.refused = none
  created : s.workerCreated = true

theorem Serves.beginStep (h : Serves s) : Serves s.beginStep where
  worker := ⟨h.worker.nstepLe, h.worker.active, h.worker.signal, h.worker.taken, h.worker.serves, h.worker.served,
    h.worker.created⟩
  channel := ⟨h.channel.params, h.channel.units⟩
  refused := h.refused
  created := h.created

theorem exec_serves (hs : Serves s) (hi : isWorkers i = true) (h : exec i s = .next t) : Serves t where
  worker := exec_workerInv hs.worker h
  channel := exec_channelInv hs.channel h
  refused := (exec_worker_silent hi h).2.trans hs.refused
  created := by
    have hkept : t.workerCreated = s.workerCreated := not_not.1 fun hne => by
      obtain ⟨a, b, rfl⟩ := (exec_blockOwners h).workerCreated hne
      simp [isWorkers] at hi
    rw [hkept, hs.created]

theorem Serves.lt_nstep (hs : Serves s) (hunit : s.wkUnit = some u) : u < s.nstep := by
  by_contra hge
  have hbit := hs.worker.served u hunit
  rw [hs.worker.taken u (Nat.le_of_not_lt hge)] at hbit
  cases hbit

/-- The channel operand of an encoder step names every unit the worker can serve. -/
theorem Serves.toNat_ofNat (hs : Serves s) (hunit : s.wkUnit = some u) : (BitVec.ofNat 8 u).toNat = u := by
  have hu := hs.lt_nstep hunit
  have hle : s.nstep ≤ 16 := hs.worker.nstepLe
  rw [BitVec.toNat_ofNat, Nat.mod_eq_of_lt (by omega)]

theorem Serves.nextbit_lt (hs : Serves s) (h : nextbit s.wkMask u = some j) : u < j ∧ j < s.nstep := by
  obtain ⟨hlt, hbit⟩ := nextbit_spec h
  refine ⟨hlt, ?_⟩
  by_contra hge
  rw [hs.worker.taken j (Nat.le_of_not_lt hge)] at hbit
  cases hbit

/-! ### The steps left -/

/-- A bound on the steps left in a service: in FILL at unit u, the room in the rings of the units from u on and one step to
leave each, then the arm pass; in ARMPASS one step a unit (R163). -/
def State.workLeft (s : State) : Nat :=
  match s.wkState, s.wkUnit with
  | .fill, some u => (s.nstep - u) * s.params.ringCap - s.count u + s.nstep
  | .armPass, some u => s.nstep - u
  | _, _ => 0

theorem State.workLeft_of_fill (hstate : s.wkState = .fill) (hunit : s.wkUnit = some u) :
    s.workLeft = (s.nstep - u) * s.params.ringCap - s.count u + s.nstep := by
  rw [State.workLeft, hstate, hunit]

theorem State.workLeft_of_armPass (hstate : s.wkState = .armPass) (hunit : s.wkUnit = some u) :
    s.workLeft = s.nstep - u := by
  rw [State.workLeft, hstate, hunit]

theorem State.count_lt (s : State) (u : Nat) : s.count u < s.params.ringCap := UnitState.outstanding_lt _ _

/-- The room of unit u's ring is more than the ring's count. -/
theorem State.fill_room (hu : u < s.nstep) :
    (s.nstep - u) * s.params.ringCap = (s.nstep - (u + 1)) * s.params.ringCap + s.params.ringCap := by
  rw [← Nat.succ_mul]
  congr 1
  omega

theorem State.workLeft_le (hstate : s.wkState = .fill) (hunit : s.wkUnit = some u) :
    s.workLeft ≤ s.nstep * (s.params.ringCap + 1) := by
  rw [State.workLeft_of_fill hstate hunit, Nat.mul_succ]
  have hle : (s.nstep - u) * s.params.ringCap ≤ s.nstep * s.params.ringCap := Nat.mul_le_mul_right _ (Nat.sub_le _ _)
  omega

/-- The service is over: the worker is back in WAIT, or a fault of its own has stopped it. -/
def Settled (s : State) : Prop := s.wkState = .wait ∨ s.workerDead = true

/-- What a step of the service comes to: its end, or less work left. -/
def Progress (s t : State) : Prop := Settled t ∨ t.workLeft < s.workLeft

/-- The worker has a step, and it is one of the service. -/
def HasStep (s : State) : Prop := ∃ i t, s.workerChoice = some i ∧ exec i s = .next t ∧ Progress s t

/-! ### Each step of FILL and ARMPASS -/

theorem UnitState.outstanding_congr {p : Params} (hhead : y.head = x.head) (htail : y.tail = x.tail) :
    y.outstanding p = x.outstanding p := by
  rw [UnitState.outstanding, UnitState.outstanding, hhead, htail]

/-- A push to the unit served takes one from its room (R150). -/
theorem Progress.push {f : UnitState → UnitState} {w : Desc} (hs : Serves s) (hfill : s.canFill u = true)
    (hhead : (f (s.unit u)).head = ((s.unit u).push s.params w).head) (htail : (f (s.unit u)).tail = (s.unit u).tail) :
    Progress s (s.modUnit u f) := by
  obtain ⟨hstate, hunit⟩ : s.wkState = .fill ∧ s.wkUnit = some u := by
    simp only [State.canFill, Bool.and_eq_true, decide_eq_true_eq] at hfill
    obtain ⟨⟨⟨⟨-, hstate⟩, hunit⟩, -⟩, -⟩ := hfill
    exact ⟨hstate, hunit⟩
  have hu := hs.lt_nstep hunit
  have hroom := State.full_eq_false (State.not_full_of_canFill hfill)
  have hcount : (s.modUnit u f).count u = s.count u + 1 := by
    have hpushed := (hs.channel.units u hu).pointers.outstanding_push hroom w
    have hafter : (s.modUnit u f).unit u = f (s.unit u) := State.unit_modUnit_same hu f
    calc (s.modUnit u f).count u = (f (s.unit u)).outstanding s.params := congrArg (UnitState.outstanding s.params) hafter
      _ = ((s.unit u).push s.params w).outstanding s.params := UnitState.outstanding_congr hhead htail
      _ = s.count u + 1 := hpushed
  have hlt := s.count_lt u
  have hsplit := State.fill_room hu
  refine .inr ?_
  rw [State.workLeft_of_fill (s := s.modUnit u f) hstate hunit, State.workLeft_of_fill hstate hunit, hcount,
    State.nstep_modUnit, State.modUnit_params]
  omega

/-- ENC_FIRST pushes, or marks a fault of the worker (R133, R139, R140). -/
theorem Progress.encodeFirst {n : Nat} (hs : Serves s) (hfill : s.canFill u = true) : Progress s (s.encodeFirst u n) := by
  by_cases hover : Config.tickLimit ≤ n
  · rw [State.encodeFirst_overflow hover]
    exact .inl (.inr (Bool.or_true _))
  · by_cases hshort : n ≤ s.params.pulse
    · rw [State.encodeFirst_short hshort (by omega)]
      exact .inl (.inr (Bool.true_or _))
    · rw [State.encodeFirst_modUnit (by omega) (by omega)]
      exact .push (w := stepWord n s.params.pulse) hs hfill rfl rfl

/-- WK_NEXT leaves the unit's room behind, and from the last unit the whole of FILL (R159). -/
theorem Progress.leaveFill (hs : Serves s) (hstate : s.wkState = .fill) (hunit : s.wkUnit = some u) :
    Progress s (s.leaveFill u) := by
  have hu := hs.lt_nstep hunit
  have hlt := s.count_lt u
  have hsplit := State.fill_room hu
  refine .inr ?_
  rw [State.workLeft_of_fill hstate hunit]
  obtain ⟨j, hj, h⟩ | ⟨-, h⟩ := s.leaveFill_cases u <;> rw [h]
  · obtain ⟨huj, -⟩ := hs.nextbit_lt hj
    have hle : (s.nstep - j) * s.params.ringCap ≤ (s.nstep - (u + 1)) * s.params.ringCap :=
      Nat.mul_le_mul_right _ (by omega)
    rw [State.workLeft_of_fill (s := { s with wkUnit := some j }) hstate rfl]
    change (s.nstep - j) * s.params.ringCap - s.count j + s.nstep < _
    omega
  · have hmask : s.wkMask ≠ 0 := fun hzero => by simpa [hzero] using hs.worker.served u hunit
    obtain ⟨l, hl, -⟩ := lowbit_spec hmask
    rw [State.workLeft_of_armPass (s := { s with wkState := .armPass, wkUnit := lowbit s.wkMask }) rfl hl]
    change s.nstep - l < _
    omega

/-- WK_ARM leaves a unit of the arm pass behind, whatever it did to the unit (R160). -/
theorem Progress.leaveArm (hs : Serves s) (hstate : s.wkState = .armPass) (hunit : s.wkUnit = some u)
    (hblock : t.block = s.block) (hn : t.nstep = s.nstep) : Progress s (t.leaveArm u) := by
  have hu := hs.lt_nstep hunit
  obtain ⟨j, hj, h⟩ | ⟨-, h⟩ := t.leaveArm_cases u <;> rw [h]
  · rw [show t.wkMask = s.wkMask from congrArg Block.wkMask hblock] at hj
    obtain ⟨huj, -⟩ := hs.nextbit_lt hj
    refine .inr ?_
    rw [State.workLeft_of_armPass hstate hunit, State.workLeft_of_armPass (s := { t with wkUnit := some j })
      ((congrArg Block.wkState hblock).trans hstate) rfl]
    change t.nstep - j < _
    omega
  · exact .inl (.inl rfl)

/-- In FILL the worker has a step, and the step is one of the service (R132, R158). -/
theorem Serves.fill_step (hs : Serves s) (hlive : s.workerLive = true) (hstate : s.wkState = .fill)
    (hunit : s.wkUnit = some u) : HasStep s := by
  have hv := hs.toNat_ofNat hunit
  have hleave (hchoice : s.workerChoice = some .wkNext) (hnext : s.canNext u = true) : HasStep s :=
    ⟨_, _, hchoice, exec_wkNext hunit hnext, .leaveFill hs hstate hunit⟩
  cases hsetup : (s.unit u).setup with
  | false =>
    have hnext : s.canNext u = true := by simp [State.canNext, hlive, hstate, hunit, hsetup]
    exact hleave (by rw [State.workerChoice_of_fill hstate hunit, if_pos hnext]) hnext
  | true =>
    have hu : u < 256 := hv ▸ (BitVec.ofNat 8 u).isLt
    obtain ⟨hdone, hcont, hfirst, hend⟩ := exactlyOneFillStepIsEnabled s u hlive hstate hunit hu hsetup
    by_cases hclosed : s.full u = true ∨ s.drained u = true
    · obtain ⟨hchoice, hnext, -⟩ := hdone hclosed
      exact hleave hchoice hnext
    · obtain ⟨hfull, hdrained⟩ : s.full u = false ∧ s.drained u = false := by simpa using hclosed
      have hfill : s.canFill u = true := by rw [State.canFill_eq hstate hunit hlive hsetup, hfull]; rfl
      by_cases hpending : (s.unit u).pendingTicks = 0
      · by_cases hsteps : (s.unit u).stepsRemaining = 0
        · have hopen : (s.unit u).endEmitted = false :=
            Bool.eq_false_iff.2 fun hended => by simp [State.drained_iff.2 ⟨hsteps, hpending, hended⟩] at hdrained
          obtain ⟨hchoice, -, -, -, henabled⟩ := hend hfull hpending hsteps hopen
          refine ⟨_, _, hchoice, exec_encEnd (by rwa [hv]), ?_⟩
          rw [hv]
          exact .push (w := marker) hs hfill rfl rfl
        · obtain ⟨hchoice, -, -, henabled, -⟩ := hfirst hfull hpending hsteps
          refine ⟨_, _, hchoice, exec_encFirst (by rwa [hv]), ?_⟩
          rw [hv]
          exact .encodeFirst hs hfill
      · obtain ⟨hchoice, -, henabled, -, -⟩ := hcont hfull hpending
        refine ⟨_, _, hchoice, exec_encCont (by rwa [hv]) rfl, ?_⟩
        rw [hv]
        exact .push (w := lowWord (s.unit u).pendingTicks.toNat) hs hfill rfl rfl

/-- In ARMPASS the worker's step is WK_ARM, which finds what it copies written (R87, R160). -/
theorem Serves.arm_step (hs : Serves s) (hlive : s.workerLive = true) (hstate : s.wkState = .armPass)
    (hunit : s.wkUnit = some u) : HasStep s := by
  have henabled : s.canArmPass u = true := by simp [State.canArmPass, hlive, hstate, hunit]
  have hchoice : s.workerChoice = some .wkArm := by
    simp [State.workerChoice, State.canTake, State.canNext, State.canEncCont, State.canEncFirst, State.canEncEnd,
      State.canFill, hstate, hunit, henabled]
  cases hready : s.armReady u with
  | false => exact ⟨_, _, hchoice, exec_wkArm_of_not_ready hunit henabled hready, .leaveArm hs hstate hunit rfl rfl⟩
  | true =>
    obtain ⟨ws, hws⟩ := hs.channel.exists_ringOldest (hs.lt_nstep hunit) (Nat.min_le_left _ s.params.winSize)
    exact ⟨_, _, hchoice, exec_wkArm_of_ready hunit henabled hready hws,
      .leaveArm hs hstate hunit (State.block_armUnit s u ws) (State.nstep_modUnit _ _ _)⟩

/-! ### The whole service -/

/-- While the service goes on the worker serves a unit, in FILL or in ARMPASS. -/
theorem Serves.position (hs : Serves s) (hbusy : ¬ Settled s) :
    s.workerLive = true ∧ ∃ u, s.wkUnit = some u ∧ (s.wkState = .fill ∨ s.wkState = .armPass) := by
  obtain ⟨hstate, hdead⟩ := not_or.1 hbusy
  obtain ⟨u, hu⟩ := Option.ne_none_iff_exists'.1 (mt hs.worker.serves.2 hstate)
  refine ⟨by simp [State.workerLive, hs.created, hdead], u, hu, ?_⟩
  cases h : s.wkState with
  | wait => exact absurd h hstate
  | fill => exact .inl rfl
  | armPass => exact .inr rfl

theorem Serves.workLeft_pos (hs : Serves s) (hbusy : ¬ Settled s) : 0 < s.workLeft := by
  obtain ⟨-, u, hunit, hstate | hstate⟩ := hs.position hbusy <;> have hu := hs.lt_nstep hunit
  · rw [State.workLeft_of_fill hstate hunit]
    omega
  · rw [State.workLeft_of_armPass hstate hunit]
    omega

/-- A turn of the worker is a step of the service and keeps the invariants. -/
theorem Serves.turn (hs : Serves s) (hbusy : ¬ Settled s) :
    ∃ t, step (s.pushTurn .worker) = .next t ∧ Serves t ∧ Progress s t := by
  obtain ⟨hlive, u, hunit, hstate⟩ := hs.position hbusy
  obtain ⟨i, t, hchoice, hexec, hprogress⟩ : HasStep s.beginStep := by
    obtain hfill | harm := hstate
    · exact hs.beginStep.fill_step hlive hfill hunit
    · exact hs.beginStep.arm_step hlive harm hunit
  exact ⟨t, (step_worker hs.channel.params hs.refused hchoice).trans hexec,
    exec_serves hs.beginStep (isWorkers_of_workerChoice hchoice) hexec, hprogress⟩

/-- The service ends within the steps left. -/
theorem Serves.ends {n : Nat} (hs : Serves s) (hn : s.workLeft ≤ n) :
    ∃ k t, k ≤ n ∧ s.workerTurns k = .next t ∧ Settled t := by
  by_cases hsettled : Settled s
  · exact ⟨0, s, Nat.zero_le n, rfl, hsettled⟩
  induction n generalizing s with
  | zero => exact absurd (hs.workLeft_pos hsettled) (by omega)
  | succ n ih =>
    obtain ⟨t, hstep, ht, hprogress⟩ := hs.turn hsettled
    by_cases hdone : Settled t
    · exact ⟨1, t, Nat.succ_pos n, State.workerTurns_succ hstep, hdone⟩
    · have hless := hprogress.resolve_left hdone
      obtain ⟨k, r, hk, hturns, hr⟩ := ih ht (by omega) hdone
      exact ⟨k + 1, r, Nat.succ_le_succ hk, (State.workerTurns_succ hstep).trans hturns, hr⟩

theorem State.created_and_signalled_of_canTake (h : s.canTake = true) : s.workerCreated = true ∧ s.workerSig ≠ 0 := by
  simp only [State.canTake, State.workerLive, Bool.and_eq_true, decide_eq_true_eq] at h
  obtain ⟨⟨⟨hcreated, -⟩, -⟩, hsig⟩ := h
  exact ⟨hcreated, hsig⟩

/-- Settles O54: WK_TAKE begins a service in FILL, where what is left is within the bound. -/
theorem workerServiceEnds : Obligations.WorkerServiceEnds := by
  intro s hworker hchannel hrefused htake
  obtain ⟨hcreated, hsig⟩ := State.created_and_signalled_of_canTake htake
  have hs : Serves s.beginStep := Serves.beginStep ⟨hworker, hchannel, hrefused, hcreated⟩
  have hexec := exec_wkTake (s := s.beginStep) htake
  obtain ⟨u, hlow, -⟩ := lowbit_spec hsig
  obtain ⟨k, t, hk, hturns, ht⟩ := (exec_serves hs rfl hexec).ends (State.workLeft_le rfl hlow)
  have hstep := (step_worker hchannel.params hrefused (if_pos htake)).trans hexec
  exact ⟨k, t, hk, (State.workerTurns_succ hstep).trans hturns, ht⟩

end Sys2Proof.Machine
end

section
/-! The two operations of a transmitter, by the word it fetched (R181, R182, R188; O25 to O27). -/

namespace Sys2Proof.Machine

variable {s : State} {u : BitVec 8} {w : Desc}

theorem exec_txDesc (hready : s.txReady u.toNat = true) (hw : s.fetchWord u.toNat = some w) (hne : w ≠ marker) :
    exec (.txDesc u) s = .next (s.transmit u.toNat w) := by
  simpa only [if_neg hne, State.consume_of_ne hne] using exec_transmitter hready hw

theorem exec_txEnd (hready : s.txReady u.toNat = true) (hw : s.fetchWord u.toNat = some marker) :
    exec (.txEnd u) s = .next (s.endTrain u.toNat) := by
  simpa only [if_true, State.consume_marker] using exec_transmitter hready hw

/-- Settles O25: a word with a duration is no marker, and `UnitState.output_eq` says what its output writes. -/
theorem txDescOutputsOneDescriptor : Obligations.TxDescOutputsOneDescriptor := by
  intro s u w hready hw hdur
  have hzero : bothZero w = false := bothZero_eq_false_iff.2 hdur
  rw [exec_txDesc hready hw (ne_marker_of_bothZero hzero), State.transmit_valid hzero]
  simp only [State.modUnit, State.setUnit, UnitState.output_eq]
  rfl

/-- Settles O26: each of the three words has both durations 0 and is not the marker. -/
theorem badDescriptorIsMarked : Obligations.BadDescriptorIsMarked := by
  intro s u w hready hw hbad
  have hword : bothZero w = true ∧ w ≠ marker := by
    obtain rfl | rfl | rfl := hbad <;> decide
  obtain ⟨hzero, hne⟩ := hword
  rw [exec_txDesc hready hw hne, State.transmit_bad hzero]
  rfl

/-- Settles O27: the word 0 is the marker. -/
theorem txEndStopsTheChannel : Obligations.TxEndStopsTheChannel := fun _ _ hready hw => exec_txEnd hready hw

end Sys2Proof.Machine
end

section
/-! The stall of a running channel with nothing to fetch (R184, R309; O29): the operations that write a channel's line, trace,
latches or fetch count are disabled or refused at it, but for a STOP. -/

namespace Sys2Proof.Machine

variable {s t : State} {i : Instr} {u : Nat} {x y : UnitState}

/-! ### The operations a stall shuts out -/

/-- A transmitter with nothing it may fetch waits (R184; log 3). -/
theorem exec_tx_of_not_ready (htx : IsTxOf s i u) (hnot : s.txReady u = false) : exec i s = .next s := by
  obtain ⟨v, rfl | rfl, rfl⟩ | ⟨rfl, rfl | ⟨a, b, rfl⟩ | ⟨a, b, rfl⟩⟩ := htx <;> exact if_neg (by simp [hnot])

theorem exec_hThr_of_not_pending {v : BitVec 8} (hnot : (s.unit v.toNat).thrPending = false) :
    exec (.hThr v) s = .next s :=
  if_neg (by simp [hnot])

theorem exec_hEnd_of_not_pending {v : BitVec 8} (hnot : (s.unit v.toNat).endPending = false) :
    exec (.hEnd v) s = .next s :=
  if_neg (by simp [hnot])

/-- A MOVE of a running unit loads nothing (R237). -/
theorem exec_move_unit_of_running {v : BitVec 8} {d : Bool} {n : BitVec 32} (h : exec (.move v d n) s = .next t)
    (hrun : (s.unit v.toNat).txRun = true) : t.unit u = s.unit u := by
  obtain ⟨e, rfl⟩ | rfl | ⟨-, -, hidle, -⟩ := execMove_next h
  · rfl
  · rfl
  · simp [State.txRun_of_fullyIdle hidle] at hrun

/-- A STOP leaves a unit alone that it does not name or that is not active (R214). -/
theorem State.unit_stopAll_of_not_stopped {m : Mask} (hnot : ¬ (m.getLsbD u = true ∧ s.activeMask.getLsbD u = true)) :
    (s.stopAll m).unit u = s.unit u := by
  have hkept : (s.stopAll m).unit u = s.unit u ∧ (s.stopAll m).activeMask.getLsbD u = s.activeMask.getLsbD u := by
    refine State.stopAll_induct (P := fun t => t.unit u = s.unit u ∧ t.activeMask.getLsbD u = s.activeMask.getLsbD u)
      ⟨rfl, rfl⟩ fun t v _ ⟨hunit, hactive⟩ => ?_
    obtain ⟨-, h⟩ | ⟨hm, hact, h⟩ := State.stopUnit_cases m t v <;> rw [h]
    · exact ⟨hunit, hactive⟩
    · have hne : u ≠ v := by
        rintro rfl
        exact hnot ⟨hm, hactive ▸ hact⟩
      obtain ⟨-, -, hmask, -⟩ := (t.modUnit v UnitState.channelHalt).retire_frame v
      refine ⟨?_, ?_⟩
      · rw [State.unit_retire, State.unit_modUnit_ne hne, hunit]
      · rw [hmask, getLsbD_clear, decide_eq_true hne, Bool.and_true]
        exact hactive
  exact hkept.1

/-- Of the two ways to halt a channel with no completion pending, only the STOP that names it while it is active is open. -/
theorem exec_halt_unit (hhalt : MayHalt i u) (hend : (s.unit u).endPending = false) (h : exec i s = .next t)
    (hnot : ¬ ∃ m, i = .stop m ∧ m.getLsbD u = true ∧ s.activeMask.getLsbD u = true) : t.unit u = s.unit u := by
  obtain ⟨m, rfl, -⟩ | ⟨v, rfl, rfl⟩ := hhalt
  · obtain rfl := execStop_next h
    exact State.unit_stopAll_of_not_stopped fun hm => hnot ⟨m, rfl, hm⟩
  · rw [exec_hEnd_of_not_pending hend] at h
    rw [Host.Outcome.next.inj h]

/-! ### What the other operations leave -/

/-- From `x` to `y` the channel keeps its run bit and fetch count, its latches, `armed`, the line and the trace. -/
structure ChannelKept (x y : UnitState) : Prop where
  txRun : y.txRun = x.txRun
  txAvail : y.txAvail = x.txAvail
  thrPending : y.thrPending = x.thrPending
  endPending : y.endPending = x.endPending
  armed : y.armed = x.armed
  stepOut : y.stepOut = x.stepOut
  trace : y.trace = x.trace

theorem ChannelKept.of_eq (h : y = x) : ChannelKept x y := by
  subst h
  constructor <;> rfl

/-- An armed channel is kept by every operation, once a MOVE, a transmitter step, a threshold service and a halt of it are
known to leave the unit alone: WK_ARM arms no armed unit (R161), and no other operation writes these registers (R52). -/
theorem UnitUpdate.channelKept (h : UnitUpdate s u i y) (harmed : (s.unit u).armed = true)
    (hshut : IsMoveOf i u ∨ IsTxOf s i u ∨ IsThresholdOf i u ∨ MayHalt i u → y = s.unit u) :
    ChannelKept (s.unit u) y := by
  cases h with
  | stay => exact .of_eq rfl
  | claim | drive | call | first | more | last => constructor <;> rfl
  | load names => exact .of_eq (hshut (.inl ⟨_, _, _, rfl, names⟩))
  | die tx | output tx | endTrain tx => exact .of_eq (hshut (.inr (.inl tx)))
  | refill names => exact .of_eq (hshut (.inr (.inr (.inl ⟨_, rfl, names⟩))))
  | clear names => exact .of_eq (hshut (.inr (.inr (.inl ⟨_, rfl, names⟩))))
  | halt halts => exact .of_eq (hshut (.inr (.inr (.inr halts))))
  | arm _ unarmed => simp [harmed] at unarmed

/-- Settles O29: where the operation is no STOP of the active unit, the stall shuts out each operation that could write the
channel, and the others keep it. -/
theorem onlyStopEndsAStall : Obligations.OnlyStopEndsAStall := by
  intro s t i u ⟨hrun, havail⟩ hthr hend harmed h
  by_cases hstop : ∃ m, i = .stop m ∧ m.getLsbD u = true ∧ s.activeMask.getLsbD u = true
  · exact .inr hstop
  have hready : s.txReady u = false := by simp [State.txReady, havail]
  have hshut : IsMoveOf i u ∨ IsTxOf s i u ∨ IsThresholdOf i u ∨ MayHalt i u → t.unit u = s.unit u := by
    rintro (⟨v, d, n, rfl, rfl⟩ | htx | ⟨v, rfl, rfl⟩ | hhalt)
    · exact exec_move_unit_of_running h hrun
    · rw [exec_tx_of_not_ready htx hready] at h
      rw [Host.Outcome.next.inj h]
    · rw [exec_hThr_of_not_pending hthr] at h
      rw [Host.Outcome.next.inj h]
    · exact exec_halt_unit hhalt hend h hstop
  have hkept := (exec_unit h u).channelKept harmed hshut
  exact .inl ⟨⟨hkept.txRun.trans hrun, hkept.txAvail.trans havail⟩, hkept.thrPending.trans hthr,
    hkept.endPending.trans hend, hkept.armed.trans harmed, hkept.stepOut, hkept.trace⟩

end Sys2Proof.Machine
end

section
/-! The two services of the completion handler: H_THR of an armed unit (R196; O31), H_END (R197, R200; O33), and why their order
on one channel does not show (R198; O34). -/

namespace Sys2Proof.Machine

variable {s t : State} {i : Instr} {u : Nat} {v : BitVec 8} {ws : List Desc}

/-! ### The threshold service of an armed unit -/

/-- A threshold service copies nothing only where the ring is empty (R196). -/
theorem State.copied_eq_zero_iff (hok : s.paramsOk = true)
    (hws : s.ringOldest u (min s.params.half (s.count u)) = some ws) : ws.length = 0 ↔ s.count u = 0 := by
  have hW : 0 < 2 * s.params.half := Params.ok_winSize_pos hok
  rw [State.ringOldest_length hws]
  omega

/-- H_THR of an armed unit refills it, and posts its bit where the ring is not empty (R196). -/
theorem exec_hThr_of_armed (hok : s.paramsOk = true) (hpending : (s.unit v.toNat).thrPending = true)
    (harmed : (s.unit v.toNat).armed = true)
    (hws : s.ringOldest v.toNat (min s.params.half (s.count v.toNat)) = some ws) :
    ∃ t, exec (.hThr v) s = .next t ∧
      (∀ w, t.unit w = (s.modUnit v.toNat (·.refill s.params ws)).unit w) ∧
      t = { s with
            units := t.units
            workerSig := if s.count v.toNat = 0 then s.workerSig else s.workerSig ||| unitBit v.toNat } := by
  have hcopied := State.copied_eq_zero_iff hok hws
  simp only [exec, execHThr, hpending, harmed, hws, if_true]
  by_cases hempty : s.count v.toNat = 0
  · rw [if_pos (hcopied.2 hempty), if_pos hempty]
    exact ⟨_, rfl, fun _ => rfl, rfl⟩
  · rw [if_neg (mt hcopied.1 hempty), if_neg hempty]
    exact ⟨_, rfl, fun _ => rfl, rfl⟩

/-- A refill leaves the bytes outside the slots from the refill position on as they are (R196). -/
theorem UnitState.read_refill_outside {p : Params} {x : UnitState} {b : Nat}
    (hb : ∀ i, i < ws.length → (x.hwOffset + i) % p.winSize ≠ b / 4) :
    Memory.read (x.refill p ws).win b = Memory.read x.win b :=
  Memory.read_writeMany_ne hb

/-- Settles O31: the unit after the service is the unit refilled, and half a window fits the window. -/
theorem hThrRefillsHalfAWindow : Obligations.HThrRefillsHalfAWindow := by
  intro s u ws hok hpending harmed hws
  have hlen : ws.length = min s.params.half (s.count u.toNat) := State.ringOldest_length hws
  have hfit : ws.length ≤ s.params.winSize := by
    rw [hlen, Params.winSize]
    omega
  obtain ⟨t, hexec, hunits, hframe⟩ := exec_hThr_of_armed hok hpending harmed hws
  have hunit : t.unit u.toNat = (s.unit u.toNat).refill s.params ws := by
    rw [hunits, State.unit_modUnit_same (State.lt_nstep_of_thrPending hpending)]
  refine ⟨t, hexec, hlen, ?_, fun b hb => ?_, fun v hv => ?_, ?_, hframe⟩
  · rw [hunit]
    exact Memory.readMany_writeMany _ _ hfit
  · rw [hunit]
    exact UnitState.read_refill_outside hb
  · rw [hunits, State.unit_modUnit_ne hv]
  · rw [hunit]
    rfl

/-! ### The completion service -/

theorem exec_hEnd (hend : (s.unit v.toNat).endPending = true) : exec (.hEnd v) s = .next (s.complete v.toNat) :=
  if_pos hend

theorem State.complete_of_idle (hidle : s.activeMask.getLsbD u = false) :
    s.complete u = s.modUnit u UnitState.channelHalt := by
  simp [State.complete, hidle]

theorem State.complete_of_more (hact : s.activeMask.getLsbD u = true) (hmore : s.activeCount - 1 ≠ 0) :
    s.complete u = (s.modUnit u UnitState.channelHalt).retire u := by
  obtain ⟨hidle, -⟩ | ⟨-, -, h⟩ | ⟨-, hlast, -⟩ := s.complete_cases u
  · simp [hact] at hidle
  · exact h
  · exact absurd hlast hmore

theorem State.complete_of_last (hact : s.activeMask.getLsbD u = true) (hlast : s.activeCount - 1 = 0) :
    s.complete u = { (s.modUnit u UnitState.channelHalt).retire u with ctxSwitchReq := true } := by
  obtain ⟨hidle, -⟩ | ⟨-, hmore, -⟩ | ⟨-, -, h⟩ := s.complete_cases u
  · simp [hact] at hidle
  · exact absurd hlast hmore
  · exact h

theorem eq_zero_of_popcount_eq_zero {m : Mask} (h : popcount m = 0) : m = 0 := by
  by_contra hne
  obtain ⟨u, hu⟩ := exists_bit_of_ne_zero hne
  exact absurd h (popcount_pos hu).ne'

/-- The last active unit's bit is the only one of the mask (R43). -/
theorem SyncInv.clear_last (hs : SyncInv s) (hact : s.activeMask.getLsbD u = true) (hone : s.activeCount = 1) :
    s.activeMask &&& ~~~ unitBit u = 0 := by
  have hpop := popcount_clear hact
  have hcount := hs.count
  exact eq_zero_of_popcount_eq_zero (by omega)

/-- Retiring the last unit while a START waits answers its caller (R197, R215). -/
theorem State.retire_of_last_waiting (hlast : s.activeCount - 1 = 0) (hwaiter : s.waiterValid = true) :
    s.retire u =
      { s.log (.startDone s.waiterId respOk) with
        activeMask := s.activeMask &&& ~~~ unitBit u, activeCount := 0, waiterValid := false } := by
  rw [State.retire_of_last hlast]
  exact State.wake_of_valid hwaiter

/-- Settles O33, by the cases of the completion; the invariant gives the last one its waiter and its empty mask. -/
theorem hEndRetiresTheUnit : Obligations.HEndRetiresTheUnit := by
  intro s u hs hend
  rw [exec_hEnd hend]
  refine ⟨(s.unit u.toNat).channelHalt, rfl, fun hidle => ?idle, fun hact hmany => ?more, fun hact hone => ?last⟩
  case idle =>
    rw [State.complete_of_idle hidle]
    rfl
  case more =>
    have hmore : s.activeCount - 1 ≠ 0 := by omega
    rw [State.complete_of_more hact hmore, State.retire_of_more (s := s.modUnit _ _) hmore]
    rfl
  case last =>
    have hlast : s.activeCount - 1 = 0 := by omega
    have hwaiter : s.waiterValid = true := hs.waiter.2 (by omega)
    rw [State.complete_of_last hact hlast, State.retire_of_last_waiting (s := s.modUnit _ _) hlast hwaiter,
      State.modUnit_activeMask, hs.clear_last hact hone]
    rfl

/-! ### Both events of one channel -/

/-- The state with another registry and mailbox: all that a threshold service writes (R196). -/
def State.withUnitsAndSig (s : State) (xs : List UnitState) (m : Mask) : State := { s with units := xs, workerSig := m }

theorem exec_hThr_eq_withUnitsAndSig (h : exec (.hThr v) s = .next t) :
    t = s.withUnitsAndSig t.units t.workerSig := by
  obtain rfl | ⟨-, ⟨-, ws, -, rfl⟩ | ⟨-, rfl⟩⟩ := execHThr_next h
  · rfl
  · split <;> rfl
  · rfl

theorem State.wake_withUnitsAndSig (s : State) (xs : List UnitState) (m : Mask) :
    (s.withUnitsAndSig xs m).wake = s.wake.withUnitsAndSig xs m := by
  cases hwaiter : s.waiterValid
  · rw [State.wake_of_none hwaiter, State.wake_of_none (s := s.withUnitsAndSig xs m) hwaiter]
  · rw [State.wake_of_valid hwaiter, State.wake_of_valid (s := s.withUnitsAndSig xs m) hwaiter]
    rfl

theorem State.retire_withUnitsAndSig (s : State) (xs : List UnitState) (m : Mask) (u : Nat) :
    (s.withUnitsAndSig xs m).retire u = (s.retire u).withUnitsAndSig xs m := by
  by_cases hlast : s.activeCount - 1 = 0
  · rw [State.retire_of_last hlast, State.retire_of_last (s := s.withUnitsAndSig xs m) hlast]
    exact State.wake_withUnitsAndSig { s with activeMask := s.activeMask &&& ~~~ unitBit u, activeCount := 0 } xs m
  · rw [State.retire_of_more hlast, State.retire_of_more (s := s.withUnitsAndSig xs m) hlast]
    rfl

/-- H_END reads neither the registry nor the mailbox for what it writes elsewhere (R197). -/
theorem State.complete_withUnitsAndSig (s : State) (xs : List UnitState) (m : Mask) (u : Nat) :
    ∃ ys, (s.withUnitsAndSig xs m).complete u = (s.complete u).withUnitsAndSig ys m := by
  obtain ⟨hidle, h⟩ | ⟨hact, hmore, h⟩ | ⟨hact, hlast, h⟩ := s.complete_cases u <;> rw [h]
  · exact ⟨_, State.complete_of_idle (s := s.withUnitsAndSig xs m) hidle⟩
  · rw [State.complete_of_more (s := s.withUnitsAndSig xs m) hact hmore]
    exact ⟨_, State.retire_withUnitsAndSig (s.modUnit u UnitState.channelHalt) _ m u⟩
  · rw [State.complete_of_last (s := s.withUnitsAndSig xs m) hact hlast]
    exact ⟨_, congrArg (fun r => { r with ctxSwitchReq := true })
      (State.retire_withUnitsAndSig (s.modUnit u UnitState.channelHalt) _ m u)⟩

/-- Only a transmitter writes a trace (R52): a service of the handler leaves every one as it is. -/
theorem exec_handler_trace (hi : i = .hThr v ∨ i = .hEnd v) (h : exec i s = .next t) (u : Nat) :
    (t.unit u).trace = (s.unit u).trace := by
  by_contra hne
  have htx := (exec_unit h u).owners.trace hne
  obtain rfl | rfl := hi <;> simp [IsTxOf] at htx

/-- A threshold service leaves the completion latches (R52, R196). -/
theorem exec_hThr_endPending (h : exec (.hThr v) s = .next t) (u : Nat) :
    (t.unit u).endPending = (s.unit u).endPending := by
  by_contra hne
  have howner := (exec_unit h u).owners.endPending hne
  simp [IsArmOf, IsTxOf, MayHalt] at howner

/-- Settles O34: the threshold service writes the registry and the mailbox only, the completion reads neither for what it
writes elsewhere, and no service writes a trace. -/
theorem orderOfTheTwoServicesIsNotObservable : Obligations.OrderOfTheTwoServicesIsNotObservable := by
  intro s t1 t2 r u hthr hend h1 h2 h
  have htrace (v : Nat) : (t2.unit v).trace = (r.unit v).trace :=
    calc (t2.unit v).trace = (t1.unit v).trace := exec_handler_trace (.inr rfl) h2 v
      _ = (s.unit v).trace := exec_handler_trace (.inl rfl) h1 v
      _ = (r.unit v).trace := (exec_handler_trace (.inr rfl) h v).symm
  rw [exec_hEnd ((exec_hThr_endPending h1 u.toNat).trans hend)] at h2
  rw [exec_hEnd hend] at h
  obtain rfl := Host.Outcome.next.inj h
  obtain rfl := Host.Outcome.next.inj h2
  have hlatch : ((s.complete u.toNat).unit u.toNat).thrPending = false := by
    rw [State.unit_complete, State.unit_modUnit_same (State.lt_nstep_of_thrPending hthr), UnitState.channelHalt_thrPending]
  obtain ⟨ys, hcomplete⟩ := s.complete_withUnitsAndSig t1.units t1.workerSig u.toNat
  rw [← exec_hThr_eq_withUnitsAndSig h1] at hcomplete
  refine ⟨htrace, ?_⟩
  rw [hcomplete]
  exact ⟨rfl, rfl, rfl, rfl, rfl, hlatch⟩

end Sys2Proof.Machine
end

section
/-! START by its checks and its effect (R211, R212, R213; O13). -/

namespace Sys2Proof.Machine

variable {s : State} {m : Mask} {c : BitVec 32} {n : Nat}

/-! ### The checks -/

/-- R212's first test finds a bit at or above NSTEP exactly where there is one. -/
theorem namesNoUnit_iff : NamesNoUnit m n ↔ beyond m n ≠ 0 := by
  constructor
  · rintro ⟨i, hi, hbit⟩ hzero
    simp [MaskIn.of_beyond hzero i hi] at hbit
  · intro hne
    obtain ⟨k, hk⟩ := exists_bit_of_ne_zero hne
    exact ⟨n + k, Nat.le_add_right n k, by simpa [beyond] using hk⟩

theorem beyond_zero (n : Nat) : beyond 0 n = 0 := BitVec.zero_ushiftRight

/-- R212's last test: some existing unit of the mask is not set up. -/
theorem State.someNotSetup_iff :
    s.someNotSetup m = true ↔ ∃ u < s.nstep, m.getLsbD u = true ∧ (s.unit u).setup = false := by
  simp [State.someNotSetup]

/-- A unit that a mask within the registry names exists. -/
theorem lt_nstep_of_named {u : Nat} (hin : ¬ NamesNoUnit m n) (hu : m.getLsbD u = true) : u < n := by
  by_contra hge
  exact hin ⟨u, Nat.le_of_not_lt hge, hu⟩

/-! ### START, check by check -/

theorem exec_start_of_beyond (h : NamesNoUnit m s.nstep) : exec (.start m c) s = .next (s.raise .invalidUnit) :=
  if_pos (namesNoUnit_iff.1 h)

theorem exec_start_of_empty : exec (.start 0 c) s = .next (s.refuse .emptyStart) :=
  (if_neg (not_not.2 (beyond_zero _))).trans (if_pos rfl)

/-- With no START in flight the last test decides (R212, R213). -/
theorem exec_start_of_idle (hne : m ≠ 0) (hin : ¬ NamesNoUnit m s.nstep) (hfree : s.waiterValid = false)
    (hidle : s.activeCount = 0) :
    exec (.start m c) s = if s.someNotSetup m then .next (s.raise .unitNotSetup) else .next (s.begin m c) := by
  have hbeyond : beyond m s.nstep = 0 := not_not.1 (mt namesNoUnit_iff.2 hin)
  have hnone : ¬ (s.waiterValid = true ∨ s.activeCount ≠ 0) := by simp [hfree, hidle]
  exact ((if_neg (not_not.2 hbeyond)).trans (if_neg hne)).trans (if_neg hnone)

/-! ### The effect -/

/-- An accepted START writes one register of a unit: the direction output of those it names (R211). -/
theorem State.unit_begin {u : Nat} (hu : u < s.nstep) : (s.begin m c).unit u =
    { s.unit u with dirOut := if m.getLsbD u then (s.unit u).direction else (s.unit u).dirOut } := by
  have hdrive : (s.begin m c).unit u = (s.driveDirections m).unit u := rfl
  rw [hdrive, State.unit_driveDirections s m hu]
  split <;> rfl

/-- Settles O13, by START's checks in their order. -/
theorem startRecordsTheWaiterAndPosts : Obligations.StartRecordsTheWaiterAndPosts := by
  intro s m c
  refine ⟨exec_start_of_beyond, ?empty, fun hne hin hfree hidle => ?accepted⟩
  case empty =>
    rintro rfl
    exact exec_start_of_empty
  case accepted =>
    rw [exec_start_of_idle hne hin hfree hidle]
    refine ⟨fun ⟨u, hu, hnot⟩ => ?notSetup, fun hall => ?effect⟩
    case notSetup =>
      rw [if_pos (State.someNotSetup_iff.2 ⟨u, lt_nstep_of_named hin hu, hu, hnot⟩)]
      rfl
    case effect =>
      have hsetup : ¬ s.someNotSetup m = true := fun hsome => by
        obtain ⟨u, -, hu, hnot⟩ := State.someNotSetup_iff.1 hsome
        simp [hall u hu] at hnot
      rw [if_neg hsetup]
      exact ⟨_, rfl, fun u hu => State.unit_begin hu, State.nstep_driveDirections s m, rfl⟩

end Sys2Proof.Machine
end

section
/-! The end of a start cycle: what STOP and H_END do to the active mask, the waiter and the responses (R214 to R216, R218);
the whole effect of a STOP (O15), and where a start-done event can come from (O51). -/

namespace Sys2Proof.Machine

variable {s t r : State} {m : Mask} {i : Instr} {u v : Nat}

/-! ### The waiter and the responses while units are retired -/

/-- From `s` to `t` nothing but the retiring of units has touched the waiter and the responses: the last active unit to go,
and no other, wakes the waiter (R215, R218). -/
structure Retires (s t : State) : Prop where
  waiterId : t.waiterId = s.waiterId
  idle : s.activeMask = 0 → t.activeMask = 0
  more : s.activeMask = 0 ∨ t.activeMask ≠ 0 → t.waiterValid = s.waiterValid ∧ t.events = s.events
  last : s.activeMask ≠ 0 → t.activeMask = 0 →
    t.waiterValid = false ∧ t.events = s.events ++ [.startDone s.waiterId respOk]

theorem Retires.of_eq (hid : t.waiterId = s.waiterId) (hmask : t.activeMask = s.activeMask)
    (hvalid : t.waiterValid = s.waiterValid) (hevents : t.events = s.events) : Retires s t :=
  ⟨hid, hmask.trans, fun _ => ⟨hvalid, hevents⟩, fun hne hzero => absurd (hmask.symm.trans hzero) hne⟩

theorem Retires.modUnit (s : State) (u : Nat) (f : UnitState → UnitState) : Retires s (s.modUnit u f) :=
  .of_eq rfl rfl rfl rfl

/-- The waiter is woken once, in the part in which the mask becomes empty. -/
theorem Retires.trans (h : Retires s t) (h' : Retires t r) : Retires s r where
  waiterId := h'.waiterId.trans h.waiterId
  idle := h'.idle ∘ h.idle
  more hmore := by
    obtain ⟨hvalid, hevents⟩ := h.more (hmore.imp_right (mt h'.idle))
    obtain ⟨hvalid', hevents'⟩ := h'.more (hmore.imp_left h.idle)
    exact ⟨hvalid'.trans hvalid, hevents'.trans hevents⟩
  last hne hzero := by
    by_cases ht : t.activeMask = 0
    · obtain ⟨hvalid, hevents⟩ := h.last hne ht
      obtain ⟨hvalid', hevents'⟩ := h'.more (.inl ht)
      exact ⟨hvalid'.trans hvalid, hevents'.trans hevents⟩
    · obtain ⟨-, hevents⟩ := h.more (.inr ht)
      obtain ⟨hvalid', hevents'⟩ := h'.last ht hzero
      exact ⟨hvalid', by rw [hevents', hevents, h.waiterId]⟩

/-- While a unit is active a START waits (R45). -/
theorem SyncInv.waiting (hs : SyncInv s) (hne : s.activeMask ≠ 0) : s.waiterValid = true := by
  obtain ⟨u, hu⟩ := exists_bit_of_ne_zero hne
  exact hs.waiter.2 (hs.count ▸ popcount_pos hu)

theorem ne_zero_of_getLsbD (h : m.getLsbD u = true) : m ≠ 0 := by
  rintro rfl
  simp at h

/-- The count is down to one exactly when the mask loses its last bit (R43). -/
theorem SyncInv.last_iff (hs : SyncInv s) (hact : s.activeMask.getLsbD u = true) :
    s.activeMask &&& ~~~ unitBit u = 0 ↔ s.activeCount - 1 = 0 := by
  have hpop := popcount_clear hact
  have hcount := hs.count
  refine ⟨fun hzero => ?_, fun hlast => hs.clear_last hact (by omega)⟩
  have hnone : popcount 0 = 0 := by decide
  rw [hzero] at hpop
  omega

theorem Retires.retire (hs : SyncInv s) (hact : s.activeMask.getLsbD u = true) : Retires s (s.retire u) := by
  have hne : s.activeMask ≠ 0 := ne_zero_of_getLsbD hact
  obtain ⟨-, -, hmask, -, hid, -⟩ := s.retire_frame u
  refine ⟨hid, fun hzero => absurd hzero hne, fun hmore => ?_, fun _ hzero => ?_⟩
  · have hleft : s.activeMask &&& ~~~ unitBit u ≠ 0 := hmask ▸ hmore.resolve_left hne
    rw [State.retire_of_more (mt (hs.last_iff hact).2 hleft)]
    exact ⟨rfl, rfl⟩
  · rw [State.retire_of_last_waiting ((hs.last_iff hact).1 (hmask ▸ hzero)) (hs.waiting hne)]
    exact ⟨rfl, rfl⟩

/-- STOP and H_END both halt the channel of the unit they retire (R197, R214). -/
theorem Retires.halt_retire (hs : SyncInv s) (hact : s.activeMask.getLsbD u = true) :
    Retires s ((s.modUnit u UnitState.channelHalt).retire u) :=
  (Retires.modUnit s u _).trans (.retire (hs.of_block (State.block_modUnit s u _)) hact)

theorem Retires.stopAll (hs : SyncInv s) (m : Mask) : Retires s (s.stopAll m) := by
  have hboth : Retires s (s.stopAll m) ∧ SyncInv (s.stopAll m) := by
    refine State.stopAll_induct (P := fun t => Retires s t ∧ SyncInv t) ⟨.of_eq rfl rfl rfl rfl, hs⟩
      fun t u _ ⟨ht, hsync⟩ => ?_
    obtain ⟨-, h⟩ | ⟨-, hact, h⟩ := State.stopUnit_cases m t u <;> rw [h]
    · exact ⟨ht, hsync⟩
    · exact ⟨ht.trans (.halt_retire hsync hact), (hsync.of_block (State.block_modUnit t u _)).retire hact⟩
  exact hboth.1

theorem Retires.complete (hs : SyncInv s) (u : Nat) : Retires s (s.complete u) := by
  obtain ⟨-, h⟩ | ⟨hact, -, h⟩ | ⟨hact, -, h⟩ := s.complete_cases u <;> rw [h]
  · exact .modUnit s u _
  · exact .halt_retire hs hact
  · exact (Retires.halt_retire hs hact).trans (.of_eq rfl rfl rfl rfl)

/-! ### The active mask -/

theorem State.getLsbD_stopUnit (m : Mask) (s : State) (v u : Nat) :
    (s.stopUnit m v).activeMask.getLsbD u = (s.activeMask.getLsbD u && !(m.getLsbD u && decide (u = v))) := by
  obtain ⟨hnot, h⟩ | ⟨hm, -, h⟩ := State.stopUnit_cases m s v <;> rw [h]
  · by_cases huv : u = v
    · subst huv
      cases hmu : m.getLsbD u <;> simp_all
    · simp [huv]
  · obtain ⟨-, -, hmask, -⟩ := (s.modUnit v UnitState.channelHalt).retire_frame v
    rw [hmask, getLsbD_clear, State.modUnit_activeMask]
    by_cases huv : u = v
    · simp [huv, hm]
    · simp [huv]

/-- A STOP clears the bits it names, of the units there are (R214). -/
theorem State.getLsbD_stopAll (s : State) (m : Mask) (u : Nat) :
    (s.stopAll m).activeMask.getLsbD u =
      (s.activeMask.getLsbD u && !(m.getLsbD u && decide (u < s.nstep))) := by
  have hfold (l : List Nat) : ∀ t : State, (l.foldl (State.stopUnit m) t).activeMask.getLsbD u =
      (t.activeMask.getLsbD u && !(m.getLsbD u && decide (u ∈ l))) := by
    induction l with
    | nil => simp
    | cons a l ih =>
      intro t
      rw [List.foldl_cons, ih, State.getLsbD_stopUnit]
      cases t.activeMask.getLsbD u <;> cases m.getLsbD u <;> simp
  rw [State.stopAll, hfold, decide_eq_decide.2 List.mem_range]

theorem State.activeMask_stopAll (hin : MaskIn s.activeMask s.nstep) (m : Mask) :
    (s.stopAll m).activeMask = s.activeMask &&& ~~~ m := by
  refine BitVec.eq_of_getLsbD_eq fun u hu => ?_
  rw [State.getLsbD_stopAll, BitVec.getLsbD_and, BitVec.getLsbD_not, decide_eq_true hu, Bool.true_and]
  by_cases hlt : u < s.nstep
  · simp [hlt]
  · simp [hin u (Nat.le_of_not_lt hlt)]

/-- H_END clears no bit but its own unit's (R197). -/
theorem State.eq_of_cleared_by_complete (hset : s.activeMask.getLsbD u = true)
    (hclear : (s.complete v).activeMask.getLsbD u = false) : v = u := by
  by_contra hne
  obtain ⟨-, -, hmask, -⟩ := (s.modUnit v UnitState.channelHalt).retire_frame v
  have hbit : ((s.modUnit v UnitState.channelHalt).retire v).activeMask.getLsbD u = true := by
    rw [hmask, getLsbD_clear, State.modUnit_activeMask, hset, decide_eq_true (Ne.symm hne), Bool.and_true]
  obtain ⟨-, h⟩ | ⟨-, -, h⟩ | ⟨-, -, h⟩ := s.complete_cases v <;> rw [h] at hclear
  · simp [hset] at hclear
  · simp [hbit] at hclear
  · simp [hbit] at hclear

/-! ### STOP -/

/-- The channel halted, also where no unit has the number: an entry at reset is halted. -/
theorem State.unit_halt (s : State) (u : Nat) : (s.modUnit u UnitState.channelHalt).unit u = (s.unit u).channelHalt := by
  by_cases hu : u < s.nstep
  · exact State.unit_modUnit_same hu _
  · have hge : s.nstep ≤ u := Nat.le_of_not_lt hu
    rw [State.unit_of_ge hge, State.unit_of_ge (by rwa [State.nstep_modUnit])]
    rfl

/-- A unit that STOP takes from the active mask has had its channel halted (R214). -/
theorem State.unit_stopAll_of_stopped (hset : s.activeMask.getLsbD u = true)
    (hclear : (s.stopAll m).activeMask.getLsbD u = false) : (s.stopAll m).unit u = (s.unit u).channelHalt := by
  have hhalted : ((s.stopAll m).activeMask.getLsbD u = true ∧ (s.stopAll m).unit u = s.unit u) ∨
      (s.stopAll m).unit u = (s.unit u).channelHalt := by
    refine State.stopAll_induct (P := fun t => (t.activeMask.getLsbD u = true ∧ t.unit u = s.unit u) ∨
      t.unit u = (s.unit u).channelHalt) (.inl ⟨hset, rfl⟩) fun t v _ ht => ?_
    obtain ⟨-, h⟩ | ⟨-, -, h⟩ := State.stopUnit_cases m t v <;> rw [h]
    · exact ht
    · obtain ⟨-, -, hmask, -⟩ := (t.modUnit v UnitState.channelHalt).retire_frame v
      rw [State.unit_retire, hmask, getLsbD_clear]
      by_cases huv : u = v
      · subst huv
        rw [State.unit_halt]
        obtain ⟨-, ht⟩ | ht := ht
        · exact .inr (by rw [ht])
        · exact .inr (by rw [ht]; rfl)
      · rw [State.unit_modUnit_ne huv, decide_eq_true huv, Bool.and_true]
        exact ht
  obtain ⟨hkept, -⟩ | h := hhalted
  · simp [hclear] at hkept
  · exact h

/-- From `s` to `t` only the registry, the Synchronization State but for the waiter's name, and the responses may differ. -/
def StopFrame (s t : State) : Prop :=
  t = { s with
        units := t.units, activeMask := t.activeMask, activeCount := t.activeCount, waiterValid := t.waiterValid,
        events := t.events }

theorem StopFrame.trans (h : StopFrame s t) (h' : StopFrame t r) : StopFrame s r := by
  unfold StopFrame at *
  rw [h', h]

theorem StopFrame.wake (s : State) : StopFrame s s.wake := by
  cases hwaiter : s.waiterValid
  · rw [State.wake_of_none hwaiter]
    rfl
  · rw [State.wake_of_valid hwaiter]
    rfl

theorem StopFrame.retire (s : State) (u : Nat) : StopFrame s (s.retire u) := by
  by_cases hlast : s.activeCount - 1 = 0
  · rw [State.retire_of_last hlast]
    exact .trans (t := { s with activeMask := s.activeMask &&& ~~~ unitBit u, activeCount := 0 }) rfl (.wake _)
  · rw [State.retire_of_more hlast]
    rfl

theorem StopFrame.stopAll (s : State) (m : Mask) : StopFrame s (s.stopAll m) := by
  refine State.stopAll_induct (P := StopFrame s) rfl fun t u _ ht => ?_
  obtain ⟨-, h⟩ | ⟨-, -, h⟩ := State.stopUnit_cases m t u <;> rw [h]
  · exact ht
  · exact ht.trans (.trans (t := t.modUnit u UnitState.channelHalt) rfl (.retire _ u))

/-- Settles O15: the mask after the STOP says which units were halted, and whether the waiter was woken. -/
theorem stopRetiresTheActiveUnitsOfItsMask : Obligations.StopRetiresTheActiveUnitsOfItsMask := by
  intro s m hs hin
  have hmask := State.activeMask_stopAll hin m
  have hretires := Retires.stopAll hs m
  refine ⟨(s.stopAll m).respond respOk, rfl, hmask, ?count, (MarksKept.stopAll s m).nstep, fun u hu => ?unit,
    fun hne hzero => ?last, fun hmore => ?more, ?frame⟩
  case count =>
    rw [← hmask]
    exact (hs.stopAll m).count
  case unit =>
    rw [State.respond_eq, State.unit_log]
    split
    · next hstopped =>
      obtain ⟨hm, hact⟩ := hstopped
      exact State.unit_stopAll_of_stopped hact (by simp [State.getLsbD_stopAll, hm, hu])
    · next hnot => exact State.unit_stopAll_of_not_stopped hnot
  case last =>
    obtain ⟨hvalid, hevents⟩ := hretires.last hne (hmask.trans hzero)
    refine ⟨hvalid, ?_⟩
    rw [State.respond_eq, State.log_events, hevents, List.append_assoc]
    rfl
  case more =>
    obtain ⟨hvalid, hevents⟩ := hretires.more (hmask ▸ hmore)
    refine ⟨hvalid, ?_⟩
    rw [State.respond_eq, State.log_events, hevents]
    rfl
  case frame => exact congrArg (·.respond respOk) (StopFrame.stopAll s m)

/-! ### Where a start-done event comes from -/

/-- A response is no start-done event. -/
theorem startDone_of_log_response {c : BitVec 32} {w q : RespWord} {n : Nat}
    (h : .startDone c w ∈ (s.log (.response q)).events.drop n) : .startDone c w ∈ s.events.drop n := by
  rw [State.log_events, List.drop_append, List.mem_append] at h
  exact h.resolve_right fun hmem => by simpa using List.mem_of_mem_drop hmem

/-- Retiring units answers the waiter only, with OK, and only when the last active unit goes (R215, R216). -/
theorem Retires.startDone {c : BitVec 32} {w : RespWord} (hs : SyncInv s) (h : Retires s t)
    (hmem : .startDone c w ∈ t.events.drop s.events.length) :
    s.activeMask ≠ 0 ∧ t.activeMask = 0 ∧ c = s.waiterId ∧ s.waiterValid = true ∧ t.waiterValid = false ∧ w = 0 := by
  by_cases hlast : s.activeMask ≠ 0 ∧ t.activeMask = 0
  · obtain ⟨hne, hzero⟩ := hlast
    obtain ⟨hvalid, hevents⟩ := h.last hne hzero
    rw [hevents, List.drop_left, List.mem_singleton] at hmem
    obtain ⟨rfl, rfl⟩ := Event.startDone.inj hmem
    exact ⟨hne, hzero, rfl, hs.waiting hne, hvalid, rfl⟩
  · obtain ⟨-, hevents⟩ := h.more (by tauto)
    simp [hevents] at hmem

theorem State.events_consume (s : State) (u : Nat) (w : Desc) : (s.consume u w).events = s.events := by
  simp only [State.consume, State.transmit, apply_ite State.events]
  simp [State.endTrain, State.faultBadDescriptor]

/-- An operation that retires no unit adds at most its own response to the record (R48, R216). -/
theorem exec_events (hstop : ¬ ∃ m, i = .stop m) (hend : ¬ ∃ v, i = .hEnd v) (h : exec i s = .next t) :
    t.events = s.events ∨ ∃ w, t.events = (s.log (.response w)).events := by
  cases i with
  | setup a b =>
    obtain ⟨e, rfl⟩ | ⟨u, -, -, -, -, -, rfl⟩ := execSetup_next h <;> exact .inr ⟨_, rfl⟩
  | move v d n =>
    obtain ⟨e, rfl⟩ | rfl | ⟨-, -, -, rfl⟩ := execMove_next h
    · exact .inr ⟨_, rfl⟩
    · exact .inl rfl
    · exact .inr ⟨_, rfl⟩
  | start m c =>
    obtain ⟨e, rfl⟩ | ⟨r, rfl⟩ | ⟨-, -, -, -, -, rfl⟩ := execStart_next h
    · exact .inr ⟨_, rfl⟩
    · exact .inl rfl
    · exact .inl rfl
  | stop m => exact absurd ⟨m, rfl⟩ hstop
  | hEnd v => exact absurd ⟨v, rfl⟩ hend
  | wkTake | encFirst | encCont | encEnd | wkNext | wkArm => exact .inl (exec_worker_silent rfl h).1
  | hThr v =>
    rw [exec_hThr_eq_withUnitsAndSig h]
    exact .inl rfl
  | txDesc v =>
    obtain rfl | ⟨-, w, -, hw, rfl⟩ := execTxDesc_next h
    · exact .inl rfl
    · exact .inl (State.consume_of_ne hw ▸ State.events_consume s _ w)
  | txEnd v =>
    obtain rfl | ⟨-, -, rfl⟩ := execTxEnd_next h <;> exact .inl rfl
  | descEnd =>
    obtain rfl | ⟨-, rfl⟩ := execDescEnd_next h
    · exact .inl rfl
    · exact .inl (State.events_consume _ _ _)
  | descStep a b =>
    obtain rfl | ⟨-, rfl⟩ := execDescStep_next h
    · exact .inl rfl
    · exact .inl (State.events_consume _ _ _)
  | descLow a b =>
    obtain rfl | ⟨-, rfl⟩ := execDescLow_next h
    · exact .inl rfl
    · exact .inl (State.events_consume _ _ _)

/-- Settles O51: STOP and H_END retire units; no other operation adds a start-done event, and START, the only other one that
writes the active mask, clears no bit of it. -/
theorem startDoneOnlyWhenTheLastUnitIsDone : Obligations.StartDoneOnlyWhenTheLastUnitIsDone := by
  intro s t i hs h
  refine ⟨fun c w hmem => ?event, fun u hset hclear => ?bit⟩
  case event =>
    by_cases hstop : ∃ m, i = .stop m
    · obtain ⟨m, rfl⟩ := hstop
      obtain rfl := execStop_next h
      have hdone : .startDone c w ∈ (s.stopAll m).events.drop s.events.length := startDone_of_log_response hmem
      have hlast := (Retires.stopAll hs m).startDone hs hdone
      exact ⟨.inl ⟨m, rfl⟩, hlast⟩
    by_cases hend : ∃ v, i = .hEnd v
    · obtain ⟨v, rfl⟩ := hend
      refine ⟨.inr ⟨v, rfl⟩, ?_⟩
      obtain rfl | ⟨-, rfl⟩ := execHEnd_next h
      · simp at hmem
      · exact (Retires.complete hs v.toNat).startDone hs hmem
    · have hold : .startDone c w ∈ s.events.drop s.events.length := by
        obtain hevents | ⟨q, hevents⟩ := exec_events hstop hend h <;> rw [hevents] at hmem
        · exact hmem
        · exact startDone_of_log_response hmem
      simp at hold
  case bit =>
    have hchanged : t.activeMask ≠ s.activeMask := fun heq => by simp [heq, hset] at hclear
    obtain ⟨m, c, rfl⟩ | ⟨m, rfl⟩ | ⟨v, rfl⟩ := (exec_blockOwners h).sync (.inl hchanged)
    · obtain ⟨e, rfl⟩ | ⟨r, rfl⟩ | ⟨-, -, -, -, -, rfl⟩ := execStart_next h
      · exact absurd rfl hchanged
      · exact absurd rfl hchanged
      · simp [State.begin, hset] at hclear
    · obtain rfl := execStop_next h
      refine .inl ⟨m, rfl, ?_⟩
      by_contra hm
      simp [State.getLsbD_stopAll, hset, hm] at hclear
    · obtain rfl | ⟨hpending, rfl⟩ := execHEnd_next h
      · exact absurd rfl hchanged
      · obtain rfl := State.eq_of_cleared_by_complete hset hclear
        exact .inr ⟨v, rfl, rfl, hpending⟩

end Sys2Proof.Machine
end

section
/-! SETUP by its answers in R231's order (R230, R231; O10). -/

namespace Sys2Proof.Machine

variable {s : State} {sp dp : BitVec 8} {u : Nat}

/-! ### The free slot -/

theorem State.freeUnit_eq_some (h : IsLowestFree s u) : s.freeUnit = some u := by
  obtain ⟨hu, hfree, hlow⟩ := h
  rw [State.freeUnit, List.find?_range_eq_some]
  exact ⟨by simp [hfree], List.mem_range.2 hu, fun v hv => by simp [hlow v hv]⟩

theorem State.freeUnit_eq_none (h : ∀ u, u < s.nstep → (s.unit u).setup = true) : s.freeUnit = none := by
  rw [State.freeUnit, List.find?_eq_none]
  exact fun u hu => by simp [h u (List.mem_range.1 hu)]

/-! ### The collaborator's errors -/

/-- A propagated error keeps its value in the upper half of the response, over code 8 and no unit (R111, R251). -/
theorem respErr_external (e : BitVec 16) : respErr (.external e) = e ++ 0x0008#16 :=
  BitVec.append_assoc (x₁ := e) (x₂ := 0x00#8) (x₃ := 0x08#8)

theorem State.raise_external (s : State) (e : BitVec 16) :
    s.raise (.external e) = s.answering (e ++ 0x0008#16) := by
  rw [← respErr_external]
  rfl

/-! ### SETUP, test by test -/

theorem exec_setup_of_invalid_pin (hpin : s.side.pinValid = false) :
    exec (.setup sp dp) s = .next (s.raise .invalidPin) :=
  if_pos (by simp [hpin])

theorem exec_setup_of_full (hpin : s.side.pinValid = true) (hfull : s.freeUnit = none) :
    exec (.setup sp dp) s = .next (s.raise .noMoreUnits) := by
  simp [exec, execSetup, hpin, hfull]

/-- With a free slot the memory decides, then the first collaborator that answers an error: the pin lock, the
configuration (R231). -/
theorem exec_setup_of_free (hpin : s.side.pinValid = true) (hfree : s.freeUnit = some u) :
    exec (.setup sp dp) s =
      if s.side.allocOk then
        (s.side.pinlock.or s.side.configure).elim (.next (s.claim u (s.side.cfg sp dp)))
          fun e => .next (s.raise (.external e))
      else .next (s.raise .notEnoughMemory) := by
  cases halloc : s.side.allocOk with
  | false => simp [exec, execSetup, hpin, hfree, halloc]
  | true =>
    cases hlock : s.side.pinlock with
    | some e => simp [exec, execSetup, hpin, hfree, halloc, hlock]
    | none =>
      cases hconf : s.side.configure with
      | some e => simp [exec, execSetup, hpin, hfree, halloc, hlock, hconf]
      | none => simp [exec, execSetup, hpin, hfree, halloc, hlock, hconf]

/-- Settles O10, by SETUP's tests in their order. -/
theorem setupClaimsTheLowestFreeUnit : Obligations.SetupClaimsTheLowestFreeUnit := by
  intro s sp dp
  refine ⟨exec_setup_of_invalid_pin, fun hpin hall => ?full, fun u hpin hlowest => ?free⟩
  case full => exact exec_setup_of_full hpin (State.freeUnit_eq_none hall)
  case free =>
    rw [exec_setup_of_free hpin (State.freeUnit_eq_some hlowest)]
    refine ⟨fun halloc => ?memory, fun e halloc hlock => ?pinlock, fun e halloc hlock hconf => ?configure,
      fun halloc hlock hconf => ?claimed⟩
    case memory =>
      rw [halloc]
      rfl
    case pinlock =>
      rw [halloc, hlock, ← State.raise_external]
      rfl
    case configure =>
      rw [halloc, hlock, hconf, ← State.raise_external]
      rfl
    case claimed =>
      rw [halloc, hlock, hconf]
      rfl

end Sys2Proof.Machine
end

section
/-! MOVE by its two errors, its precondition and its effect (R235, R237; O11, O12). -/

namespace Sys2Proof.Machine

variable {s : State} {u : BitVec 8} {dir : Bool} {n : BitVec 32}

/-- A unit that is not fully idle is in one of R237's four kinds of use. -/
theorem State.fullyIdle_eq_false_iff {u : Nat} : s.fullyIdle u = false ↔
    s.activeMask.getLsbD u = true ∨ (s.unit u).txRun = true ∨
      (s.wkState ≠ .wait ∧ s.wkMask.getLsbD u = true) ∨ s.workerSig.getLsbD u = true := by
  simp [State.fullyIdle, or_assoc, Decidable.imp_iff_not_or]

/-! ### MOVE, test by test -/

theorem exec_move_of_beyond (h : s.nstep ≤ u.toNat) : exec (.move u dir n) s = .next (s.raise .invalidUnit) :=
  if_pos h

theorem exec_move_of_not_setup (hu : u.toNat < s.nstep) (hnot : (s.unit u.toNat).setup = false) :
    exec (.move u dir n) s = .next (s.raise .unitNotSetup) := by
  simp [exec, execMove, Nat.not_le.2 hu, hnot]

/-- Only a fully idle unit takes the train (R237). -/
theorem exec_move_of_setup (hu : u.toNat < s.nstep) (hset : (s.unit u.toNat).setup = true) :
    exec (.move u dir n) s =
      if s.fullyIdle u.toNat then .next (s.load u.toNat dir n) else .next (s.refuse .busyMove) := by
  cases hidle : s.fullyIdle u.toNat with
  | false => simp [exec, execMove, Nat.not_le.2 hu, hset, hidle]
  | true => simp [exec, execMove, Nat.not_le.2 hu, hset, hidle]

/-- Settles O11: the two errors in their order, and `State.load` writes the registers of R235. -/
theorem moveLoadsATrain : Obligations.MoveLoadsATrain := by
  intro s u dir n
  refine ⟨exec_move_of_beyond, exec_move_of_not_setup, fun hu hset hidle => ?loaded⟩
  case loaded =>
    rw [exec_move_of_setup hu hset, if_pos hidle]
    rfl

/-- Settles O12: each of the four kinds of use makes the unit not fully idle. -/
theorem moveOfABusyUnitIsRefused : Obligations.MoveOfABusyUnitIsRefused := by
  intro s u dir n hu hset hbusy
  have hidle : s.fullyIdle u.toNat = false := State.fullyIdle_eq_false_iff.2 hbusy
  rw [exec_move_of_setup hu hset, hidle]
  rfl

end Sys2Proof.Machine
end

section
/-! The boundary's conversion of a distance to a step count (R236; O38). -/

namespace Sys2Proof.Machine

/-- The step count is the whole part of the exact product (R236). -/
theorem stepsOfDistance_bounds {d k : Ratio} (hd : 0 < d.den) (hk : 0 < k.den) (hnum : 0 < k.num) :
    stepsOfDistance d k * (d.den * k.den) ≤ d.num.natAbs * k.num.natAbs ∧
    d.num.natAbs * k.num.natAbs < (stepsOfDistance d k + 1) * (d.den * k.den) := by
  have habs : k.num.natAbs = k.num.toNat := by omega
  rw [habs, stepsOfDistance]
  exact ⟨Nat.div_mul_le_self _ _, (Nat.div_lt_iff_lt_mul (Nat.mul_pos hd hk)).1 (Nat.lt_succ_self _)⟩

/-- The call becomes the MOVE of its count where 32 bits hold the count (R118, R236). -/
theorem State.moveCall_eq (s : State) (u : BitVec 8) (d : Ratio) :
    s.moveCall u d =
      if stepsOfDistance d (s.unit u.toNat).cfg.stepsPerUnit < 2 ^ 32 then
        some (.move u (decide (0 ≤ d.num)) (BitVec.ofNat 32 (stepsOfDistance d (s.unit u.toNat).cfg.stepsPerUnit)))
      else none := rfl

/-- Settles O38: the count is `stepsOfDistance` at the unit's own steps per unit. -/
theorem stepCountIsTheWholePartOfTheDistance : Obligations.StepCountIsTheWholePartOfTheDistance := by
  rintro s u d k rfl hd hk hnum
  obtain ⟨hle, hlt⟩ := stepsOfDistance_bounds hd hk hnum
  refine ⟨_, hle, hlt, fun hfits => ?fits, fun hlarge => ?large⟩
  case fits => rw [State.moveCall_eq, if_pos hfits]
  case large => rw [State.moveCall_eq, if_neg (Nat.not_lt.2 hlarge)]

end Sys2Proof.Machine
end

section
/-! The handler's choice among the latches that are set (R49, R198, R262, R263; O36). -/

namespace Sys2Proof.Machine

variable {s : State} {u : Nat} {i : Instr}

/-! ### One channel's service -/

theorem State.serviceOf_eq_none_iff :
    s.serviceOf u = none ↔ (s.unit u).thrPending = false ∧ (s.unit u).endPending = false := by
  cases ht : (s.unit u).thrPending <;> cases he : (s.unit u).endPending <;> simp [State.serviceOf, ht, he]

theorem State.serviceOf_of_threshold (ht : (s.unit u).thrPending = true) :
    s.serviceOf u = some (.hThr (BitVec.ofNat 8 u)) := if_pos ht

theorem State.serviceOf_of_completion (ht : (s.unit u).thrPending = false) (he : (s.unit u).endPending = true) :
    s.serviceOf u = some (.hEnd (BitVec.ofNat 8 u)) := by
  simp [State.serviceOf, ht, he]

/-! ### The choice over the channels -/

/-- The handler is without a service exactly while no latch is set (R49, R262). -/
theorem State.handlerChoice_eq_none_iff : s.handlerChoice = none ↔ s.irq = false := by
  simp [State.handlerChoice, State.serviceOf_eq_none_iff, State.irq]

/-- The channels below the lowest one with a service are passed over, and those above it are not looked at (R263). -/
theorem State.handlerChoice_of_lowest (hu : u < s.nstep) (hbelow : ∀ v < u, s.serviceOf v = none)
    (hservice : s.serviceOf u = some i) : s.handlerChoice = some i := by
  obtain ⟨k, hk⟩ : ∃ k, s.nstep = u + (k + 1) := ⟨s.nstep - u - 1, by omega⟩
  have hsplit : List.range s.nstep = List.range u ++ u :: (List.range k).map (u + ·.succ) := by
    simp [hk, List.range_add, List.range_succ_eq_map, Function.comp_def]
  exact List.findSome?_eq_some_iff.2
    ⟨_, u, _, hsplit, hservice, fun v hv => hbelow v (List.mem_range.1 hv)⟩

/-- Settles O36: the choice is the service of the lowest channel that has one, and each service puts the threshold first. -/
theorem handlerServesTheFirstPendingEvent : Obligations.HandlerServesTheFirstPendingEvent := by
  intro s _
  refine ⟨State.handlerChoice_eq_none_iff.2, fun u hu hclear => ?lowest⟩
  case lowest =>
    have hbelow : ∀ v < u, s.serviceOf v = none := fun v hv => State.serviceOf_eq_none_iff.2 (hclear v hv)
    exact ⟨fun ht => State.handlerChoice_of_lowest hu hbelow (State.serviceOf_of_threshold ht),
      fun ht he => State.handlerChoice_of_lowest hu hbelow (State.serviceOf_of_completion ht he)⟩

end Sys2Proof.Machine
end

section
/-! A START while one is in flight (R213, R300; O14). -/

namespace Sys2Proof.Machine

variable {s : State} {m : Mask} {c : BitVec 32}

/-- With a waiter recorded a START that names existing units is refused before R212's last test (R213; log 15). -/
theorem exec_start_of_waiting (hne : m ≠ 0) (hin : ¬ NamesNoUnit m s.nstep) (hwaiter : s.waiterValid = true) :
    exec (.start m c) s = .next (s.refuse .secondStart) := by
  have hbeyond : ¬ beyond m s.nstep ≠ 0 := mt namesNoUnit_iff.2 hin
  exact ((if_neg hbeyond).trans (if_neg hne)).trans (if_pos (.inl hwaiter))

/-- Settles O14: the empty mask has a reason of its own, any other mask meets the START in flight. -/
theorem startWhileOneIsInFlightIsRefused : Obligations.StartWhileOneIsInFlightIsRefused := by
  intro s m c hin hwaiter
  by_cases hempty : m = 0
  case pos =>
    subst hempty
    exact ⟨_, exec_start_of_empty⟩
  case neg => exact ⟨_, exec_start_of_waiting hempty hin hwaiter⟩

end Sys2Proof.Machine
end

section
/-! The block after reset does nothing until the host issues a command (R53, R292; O40). -/

namespace Sys2Proof.Machine

variable {s : State} {u : Nat}

/-! ### Agents without a step -/

theorem State.workerLive_of_not_created (h : s.workerCreated = false) : s.workerLive = false := by
  simp [State.workerLive, h]

/-- Each of the worker's six steps asks for a live worker (R153, R164). -/
theorem State.workerChoice_of_not_live (h : s.workerLive = false) : s.workerChoice = none := by
  cases hunit : s.wkUnit with
  | none => simp [State.workerChoice, State.canTake, h, hunit]
  | some u =>
    have hfill : s.canFill u = false := by simp [State.canFill, h]
    simp [State.workerChoice, State.canTake, State.canNext, State.canEncCont, State.canEncFirst, State.canEncEnd,
      State.canArmPass, h, hfill, hunit]

theorem State.txReady_of_stopped (h : (s.unit u).txRun = false) : s.txReady u = false := by
  simp [State.txReady, h]

/-- Without a waiter the start cycle is Idle (R46, R210). -/
theorem State.syncPhase_of_no_waiter (h : s.waiterValid = false) : s.syncPhase = .idle := by
  simp [State.syncPhase, h]

/-! ### The state after reset -/

/-- No latch is set after reset (R53). -/
theorem State.irq_resetWith (p : Params) (n : Nat) : (State.resetWith p n).irq = false := by
  simp [State.irq, UnitState.reset]

/-- Settles O40: every unit reads as an entry at reset, and each agent lacks what its steps ask for. -/
theorem resetLeavesTheBlockIdle : Obligations.ResetLeavesTheBlockIdle := by
  intro p n
  have hirq := State.irq_resetWith p n
  have hunit (u : Nat) := State.unit_resetWith p n u
  have hstopped (u : Nat) : ((State.resetWith p n).unit u).txRun = false := by rw [hunit]; rfl
  refine ⟨State.nstep_resetWith p n, fun u => ?units, rfl, hirq, State.syncPhase_of_no_waiter rfl, rfl,
    State.workerChoice_of_not_live (State.workerLive_of_not_created rfl), State.handlerChoice_eq_none_iff.2 hirq,
    fun u => State.txReady_of_stopped (hstopped u)⟩
  case units =>
    rw [hunit]
    exact ⟨rfl, rfl, rfl, rfl⟩

end Sys2Proof.Machine
end

section
/-! The ten internal steps where they are not enabled: the turn passes without effect (log 3; O30). -/

namespace Sys2Proof.Machine

variable {s : State} {v : BitVec 8} {w : Desc}

/-! ### The worker -/

theorem exec_wkTake_of_disabled (h : s.canTake = false) : exec .wkTake s = .next s :=
  if_neg (Bool.eq_false_iff.1 h)

theorem exec_encFirst_of_disabled (h : s.canEncFirst v.toNat = false) : exec (.encFirst v) s = .next s :=
  if_neg (Bool.eq_false_iff.1 h)

theorem exec_encCont_of_disabled (h : s.canEncCont v.toNat = false) : exec (.encCont v) s = .next s :=
  if_neg (Bool.eq_false_iff.1 h)

theorem exec_encEnd_of_disabled (h : s.canEncEnd v.toNat = false) : exec (.encEnd v) s = .next s :=
  if_neg (Bool.eq_false_iff.1 h)

/-- WK_NEXT is about the current unit; without one it is not enabled (R159). -/
theorem exec_wkNext_of_disabled (h : ∀ u, s.canNext u = false) : exec .wkNext s = .next s := by
  cases hunit : s.wkUnit with
  | none => simp [exec, execWkNext, hunit, waits]
  | some u => simp [exec, execWkNext, hunit, h u, waits]

/-- WK_ARM is about the current unit; without one it is not enabled (R160). -/
theorem exec_wkArm_of_disabled (h : ∀ u, s.canArmPass u = false) : exec .wkArm s = .next s := by
  cases hunit : s.wkUnit with
  | none => simp [exec, execWkArm, hunit, waits]
  | some u => simp [exec, execWkArm, hunit, h u, waits]

/-! ### A transmitter that fetched the other operation's word -/

/-- TX_DESC leaves the marker to TX_END (R181). -/
theorem exec_txDesc_of_marker (hw : s.fetchWord v.toNat = some marker) : exec (.txDesc v) s = .next s := by
  cases hready : s.txReady v.toNat with
  | false => exact exec_txDesc_of_not_ready hready
  | true => simp [exec, execTxDesc, hready, hw, waits]

theorem exec_txEnd_of_not_ready (hready : s.txReady v.toNat = false) : exec (.txEnd v) s = .next s :=
  exec_tx_of_not_ready (.inl ⟨v, .inr rfl, rfl⟩) hready

/-- TX_END leaves every word but the marker to TX_DESC (R182). -/
theorem exec_txEnd_of_ne_marker (hw : s.fetchWord v.toNat = some w) (hne : w ≠ marker) :
    exec (.txEnd v) s = .next s := by
  cases hready : s.txReady v.toNat with
  | false => exact exec_txEnd_of_not_ready hready
  | true => simp [exec, execTxEnd, hready, hw, hne, waits]

/-- Settles O30, step by step. -/
theorem disabledOperationWaits : Obligations.DisabledOperationWaits := fun _ _ =>
  ⟨exec_wkTake_of_disabled, exec_encFirst_of_disabled, exec_encCont_of_disabled, exec_encEnd_of_disabled,
    exec_wkNext_of_disabled, exec_wkArm_of_disabled,
    fun hnot => ⟨exec_txDesc_of_not_ready hnot, exec_txEnd_of_not_ready hnot⟩,
    exec_txDesc_of_marker, fun _ => exec_txEnd_of_ne_marker,
    exec_hThr_of_not_pending, exec_hEnd_of_not_pending⟩

end Sys2Proof.Machine
end
